-- ==== Sys2Proof/Word.lean ====
section
/-! DEFINITION. The words of chip8_core: bytes, 16-bit words, the instruction's fields, the pixel grid. -/

namespace Sys2Proof

/-- An 8-bit value: a general register, a timer, a byte of memory (10_state.md R20). -/
abbrev Byte := BitVec 8

/-- A 16-bit value: I, pc, a stack entry, an instruction word (10_state.md R24, R25, R27). -/
abbrev Word := BitVec 16

/-- A 4-bit field: a register selector, a sprite height, a key or digit number (30_encoding.md R81). -/
abbrev Nibble := BitVec 4

/-- The 12-bit address field nnn (30_encoding.md R81). -/
abbrev Addr := BitVec 12

/-- The display: 32 rows of 64 one-bit pixels; column c of a row is bit c of its word (10_state.md R32). DESIGN CHOICE (log 18), safe: only the packing. -/
abbrev Grid := Vector (BitVec 64) 32

/-- `pixel g r c` is Grid[r][c] (10_state.md R32). -/
def Grid.pixel (g : Grid) (r : Fin 32) (c : Fin 64) : Bool := g[r].getLsbD c

/-- The grid with every pixel 0. -/
def Grid.blank : Grid := Vector.replicate 32 0

end Sys2Proof
end

