-- ==== Sys2Proof/Config.lean ====
section
/-! DEFINITION. What an implementation fixes (table P2 of 00_scope.md R7), the fixed sizes of table P1, and the free values. -/

namespace Sys2Proof

/-- SHIFT_SRC: which register 8xy6 and 8xyE shift (42_alu_shift.md R155). -/
inductive ShiftSrc where
  | vx
  | vy
deriving DecidableEq, Repr

/-- RESERVED_WRITE_POLICY: what a data write to 0x000-0x1FF does (20_memory.md R65). -/
inductive WritePolicy where
  | fault
  | perform
deriving DecidableEq, Repr

/-- FONT_DIGIT_POLICY and KEY_INDEX_POLICY: what a digit or key number above 0xF does (44 R192, 41 R128, R129). -/
inductive IndexPolicy where
  | fault
  | lowNibble
deriving DecidableEq, Repr

/-- RESET_FILL: what registers, timers and unloaded memory hold after reset (10_state.md R20, 20_memory.md R62). -/
inductive ResetFill where
  | zero
  | arbitrary
deriving DecidableEq, Repr

/-- The named parameters of table P2 (00_scope.md R7). State carries one, and no transition writes it (log 1). -/
structure Config where
  /-- FONT_BASE: any address with FONT_BASE + 79 <= 0x1FF (see `Config.wellFormed`). -/
  fontBase : Nat
  shiftSrc : ShiftSrc
  /-- LOGIC_VF_RESET: whether 8xy1, 8xy2, 8xy3 write VF <- 0 (42_alu_shift.md R149). -/
  logicVfReset : Bool
  reservedWrite : WritePolicy
  fontDigit : IndexPolicy
  keyIndex : IndexPolicy
  resetFill : ResetFill
deriving DecidableEq, Repr

/-! Table P1: fixed sizes (00_scope.md R7). -/

/-- MEM_SIZE: 4096 bytes, addresses 0x000-0xFFF. -/
def memSize : Nat := 4096
/-- The first address above RESERVED_HI (0x1FF). -/
def reservedEnd : Nat := 0x200
/-- PROGRAM_BASE: where the image is loaded. -/
def programBase : Nat := 0x200
/-- MAX_IMAGE: 4096 - 0x200 bytes. -/
def maxImage : Nat := 3584
/-- GLYPH_COUNT x GLYPH_BYTES. -/
def fontSize : Nat := 80

/-! Free values: opaque constants, so that no proof can see what they are. The first argument is always the value of
State's counter of draws. -/

/-- The `rand` input of a STEP that executes Cxkk, where State.randIn names none (45_timers_keys_random.md R217, log 3). -/
opaque Config.freeRand : Nat → Byte

/-! What RESET leaves with RESET_FILL = ARBITRARY (92_eei_decisions.md D5, D7, log 7). -/

/-- V[x] after such a RESET. -/
opaque Config.freeV : Nat → Nat → Byte
/-- I after such a RESET. -/
opaque Config.freeI : Nat → Word
/-- DT after such a RESET. -/
opaque Config.freeDT : Nat → Byte
/-- ST after such a RESET. -/
opaque Config.freeST : Nat → Byte
/-- keys after such a RESET. -/
opaque Config.freeKeys : Nat → Word
/-- kprev after such a RESET. -/
opaque Config.freeKprev : Nat → Word
/-- Row r of Grid after such a RESET. -/
opaque Config.freeGridRow : Nat → Nat → BitVec 64
/-- redraw after such a RESET. -/
opaque Config.freeRedraw : Nat → Bool
/-- SP after such a RESET: any count of entries in use. -/
opaque Config.freeSP : Nat → Fin 17
/-- S[j] after such a RESET, for an entry that the drawn SP counts as in use: any return address, which 10_state.md R26 bounds by 0xFFE. -/
opaque Config.freeReturn : Nat → Nat → Fin 0xFFF
/-- S[j] after such a RESET, for an entry not in use (10_state.md R27: unspecified). -/
opaque Config.freeStack : Nat → Nat → Word
/-- The byte at an address that neither the font nor the image fills, after such a RESET (20_memory.md R62). -/
opaque Config.freeMem : Nat → Nat → Byte

end Sys2Proof
end

