-- ==== Sys2Proof/Syntax.lean ====
section
/-! DEFINITION. The 34 instruction variants of 30_encoding.md table E3, one constructor per row of the opcode table. -/

namespace Sys2Proof

/-- An instruction with its decoded fields (30_encoding.md R81, table E3). The width of a field is its type. -/
inductive Instr where
  /-- 00E0 -/
  | cls
  /-- 00EE -/
  | ret
  /-- 1nnn -/
  | jp (nnn : Addr)
  /-- 2nnn -/
  | call (nnn : Addr)
  /-- 3xkk -/
  | seVK (x : Nibble) (kk : Byte)
  /-- 4xkk -/
  | sneVK (x : Nibble) (kk : Byte)
  /-- 5xyn: n is read and ignored (R86) -/
  | seVV (x y n : Nibble)
  /-- 6xkk -/
  | ldVK (x : Nibble) (kk : Byte)
  /-- 7xkk -/
  | addVK (x : Nibble) (kk : Byte)
  /-- 8xy0 -/
  | ldVV (x y : Nibble)
  /-- 8xy1 -/
  | orVV (x y : Nibble)
  /-- 8xy2 -/
  | andVV (x y : Nibble)
  /-- 8xy3 -/
  | xorVV (x y : Nibble)
  /-- 8xy4 -/
  | addVV (x y : Nibble)
  /-- 8xy5 -/
  | sub (x y : Nibble)
  /-- 8xy6 -/
  | shr (x y : Nibble)
  /-- 8xy7 -/
  | subn (x y : Nibble)
  /-- 8xyE -/
  | shl (x y : Nibble)
  /-- 9xyn: n is read and ignored (R86) -/
  | sneVV (x y n : Nibble)
  /-- Annn -/
  | ldI (nnn : Addr)
  /-- Bnnn -/
  | jpV0 (nnn : Addr)
  /-- Cxkk -/
  | rnd (x : Nibble) (kk : Byte)
  /-- Dxyn -/
  | drw (x y n : Nibble)
  /-- Ex9E -/
  | skp (x : Nibble)
  /-- ExA1 -/
  | sknp (x : Nibble)
  /-- Fx07 -/
  | ldVDT (x : Nibble)
  /-- Fx0A -/
  | ldVKey (x : Nibble)
  /-- Fx15 -/
  | ldDTV (x : Nibble)
  /-- Fx18 -/
  | ldSTV (x : Nibble)
  /-- Fx1E -/
  | addIV (x : Nibble)
  /-- Fx29 -/
  | ldFV (x : Nibble)
  /-- Fx33 -/
  | ldBV (x : Nibble)
  /-- Fx55 -/
  | ldMemV (x : Nibble)
  /-- Fx65 -/
  | ldVMem (x : Nibble)
deriving DecidableEq, Repr

end Sys2Proof
end

