-- ==== Sys2Proof/WellFormed.lean ====
section
/-! DEFINITION. The checks on raw data that its type does not carry already.

A term of Instr needs none: every field's width is its type (30_encoding.md R81), so an ill-formed instruction cannot be
written. What can be ill-formed is a configuration, a program image, and an instruction as assembler source. -/

namespace Sys2Proof

/-- FONT_BASE: "any address with FONT_BASE + 79 <= 0x1FF" (00_scope.md table P2). -/
abbrev Config.wellFormed (c : Config) : Prop := c.fontBase + 79 ≤ 0x1FF

/-- The image RESET takes: at most 3584 bytes (70_reset_and_hazards.md R261). -/
abbrev imageWellFormed (image : List Byte) : Prop := image.length ≤ maxImage

/-- The instructions an assembler produces: "`SE Vx, Vy` and `SNE Vx, Vy` assemble with n = 0" (30_encoding.md R92). The decoder and the engine accept every n (R86). -/
def Instr.assembled : Instr → Bool
  | .seVV _ _ n => n == 0
  | .sneVV _ _ n => n == 0
  | _ => true

end Sys2Proof
end

