-- ==== Sys2Proof/Decode.lean ====
section
/-! DEFINITION. The block chip8_decoder (30_encoding.md), the encoder, and the byte order of an instruction word. -/

namespace Sys2Proof

/-! ## Fields (30_encoding.md R81) -/

/-- `op = w[15:12]`, the opcode class. -/
def opOf (w : Word) : Nibble := w.extractLsb' 12 4
/-- `x = w[11:8]`. -/
def xOf (w : Word) : Nibble := w.extractLsb' 8 4
/-- `y = w[7:4]`. -/
def yOf (w : Word) : Nibble := w.extractLsb' 4 4
/-- `n = w[3:0]`. -/
def nOf (w : Word) : Nibble := w.extractLsb' 0 4
/-- `kk = w[7:0]`. -/
def kkOf (w : Word) : Byte := w.extractLsb' 0 8
/-- `nnn = w[11:0]`. -/
def nnnOf (w : Word) : Addr := w.extractLsb' 0 12

/-- The decoder's field output: every field of every word, used by the variant or not (10_state.md R38, 30_encoding.md R81). -/
structure Fields where
  op : Nibble
  x : Nibble
  y : Nibble
  n : Nibble
  kk : Byte
  nnn : Addr
deriving DecidableEq, Repr

/-- The `fields` output of chip8_decoder (10_state.md R38). -/
def fieldsOf (w : Word) : Fields := ⟨opOf w, xOf w, yOf w, nOf w, kkOf w, nnnOf w⟩

/-! ## Classification (30_encoding.md R84) -/

/-- Class 0x0 matches the whole word (R85). -/
def decodeClass0 (w : Word) : Option Instr :=
  if w = 0x00E0#16 then some .cls
  else if w = 0x00EE#16 then some .ret
  else none

/-- Class 0x8 is decided by the low nibble (R87). -/
def decodeClass8 (w : Word) : Option Instr :=
  match nOf w with
  | 0x0#4 => some (.ldVV (xOf w) (yOf w))
  | 0x1#4 => some (.orVV (xOf w) (yOf w))
  | 0x2#4 => some (.andVV (xOf w) (yOf w))
  | 0x3#4 => some (.xorVV (xOf w) (yOf w))
  | 0x4#4 => some (.addVV (xOf w) (yOf w))
  | 0x5#4 => some (.sub (xOf w) (yOf w))
  | 0x6#4 => some (.shr (xOf w) (yOf w))
  | 0x7#4 => some (.subn (xOf w) (yOf w))
  | 0xE#4 => some (.shl (xOf w) (yOf w))
  | _ => none

/-- Class 0xE is decided by the low byte (R88). -/
def decodeClassE (w : Word) : Option Instr :=
  match kkOf w with
  | 0x9E#8 => some (.skp (xOf w))
  | 0xA1#8 => some (.sknp (xOf w))
  | _ => none

/-- Class 0xF is decided by the low byte (R89). -/
def decodeClassF (w : Word) : Option Instr :=
  match kkOf w with
  | 0x07#8 => some (.ldVDT (xOf w))
  | 0x0A#8 => some (.ldVKey (xOf w))
  | 0x15#8 => some (.ldDTV (xOf w))
  | 0x18#8 => some (.ldSTV (xOf w))
  | 0x1E#8 => some (.addIV (xOf w))
  | 0x29#8 => some (.ldFV (xOf w))
  | 0x33#8 => some (.ldBV (xOf w))
  | 0x55#8 => some (.ldMemV (xOf w))
  | 0x65#8 => some (.ldVMem (xOf w))
  | _ => none

/-- The `variant` output of chip8_decoder with its fields, total on all 65536 words; `none` is INVALID (R84). -/
def decodeWord (w : Word) : Option Instr :=
  match opOf w with
  | 0x0#4 => decodeClass0 w
  | 0x1#4 => some (.jp (nnnOf w))
  | 0x2#4 => some (.call (nnnOf w))
  | 0x3#4 => some (.seVK (xOf w) (kkOf w))
  | 0x4#4 => some (.sneVK (xOf w) (kkOf w))
  | 0x5#4 => some (.seVV (xOf w) (yOf w) (nOf w))
  | 0x6#4 => some (.ldVK (xOf w) (kkOf w))
  | 0x7#4 => some (.addVK (xOf w) (kkOf w))
  | 0x8#4 => decodeClass8 w
  | 0x9#4 => some (.sneVV (xOf w) (yOf w) (nOf w))
  | 0xA#4 => some (.ldI (nnnOf w))
  | 0xB#4 => some (.jpV0 (nnnOf w))
  | 0xC#4 => some (.rnd (xOf w) (kkOf w))
  | 0xD#4 => some (.drw (xOf w) (yOf w) (nOf w))
  | 0xE#4 => decodeClassE w
  | _ => decodeClassF w

/-! ## Bytes -/

/-- The big-endian word of two consecutive bytes (20_memory.md R66). -/
def wordOfBytes (hi lo : Byte) : Word := hi ++ lo

/-- Bits 15:8 of a word, the byte at the lower address (20_memory.md R66). -/
def hiByte (w : Word) : Byte := w.extractLsb' 8 8
/-- Bits 7:0 of a word, the byte at the higher address (20_memory.md R66). -/
def loByte (w : Word) : Byte := w.extractLsb' 0 8

/-- Why bytes do not decode. -/
inductive DecodeReject where
  /-- fewer than the two bytes of an instruction (30_encoding.md R80) -/
  | truncated
  /-- the classification "no such instruction" (R90), with the word -/
  | noSuchInstruction (w : Word)
deriving DecidableEq, Repr

/-- Decoding of a list of bytes: one instruction and the bytes after it, or the reason there is none. -/
def decode (bytes : List Byte) : Except DecodeReject (Instr × List Byte) :=
  match bytes with
  | hi :: lo :: rest =>
    match decodeWord (wordOfBytes hi lo) with
    | some i => .ok (i, rest)
    | none => .error (.noSuchInstruction (wordOfBytes hi lo))
  | _ => .error .truncated

/-- The word of a row of the opcode table: its `nbits` bits, every bit above them 0. -/
def tableWord (nbits w : Nat) : Word := BitVec.ofNat 16 (w % 2 ^ nbits)

/-- What `decode` reads from an opcode-table word laid out as the hardware stores it. -/
def decodeTableWord (nbits w : Nat) : Option Instr :=
  match decode [hiByte (tableWord nbits w), loByte (tableWord nbits w)] with
  | .ok (i, _) => some i
  | .error _ => none

/-! ## The encoder (30_encoding.md table E2 and the "pattern" column of table E3) -/

/-- The word of an instruction. -/
def encode : Instr → Word
  | .cls => 0x00E0#16
  | .ret => 0x00EE#16
  | .jp nnn => 0x1#4 ++ nnn
  | .call nnn => 0x2#4 ++ nnn
  | .seVK x kk => 0x3#4 ++ x ++ kk
  | .sneVK x kk => 0x4#4 ++ x ++ kk
  | .seVV x y n => 0x5#4 ++ x ++ y ++ n
  | .ldVK x kk => 0x6#4 ++ x ++ kk
  | .addVK x kk => 0x7#4 ++ x ++ kk
  | .ldVV x y => 0x8#4 ++ x ++ y ++ 0x0#4
  | .orVV x y => 0x8#4 ++ x ++ y ++ 0x1#4
  | .andVV x y => 0x8#4 ++ x ++ y ++ 0x2#4
  | .xorVV x y => 0x8#4 ++ x ++ y ++ 0x3#4
  | .addVV x y => 0x8#4 ++ x ++ y ++ 0x4#4
  | .sub x y => 0x8#4 ++ x ++ y ++ 0x5#4
  | .shr x y => 0x8#4 ++ x ++ y ++ 0x6#4
  | .subn x y => 0x8#4 ++ x ++ y ++ 0x7#4
  | .shl x y => 0x8#4 ++ x ++ y ++ 0xE#4
  | .sneVV x y n => 0x9#4 ++ x ++ y ++ n
  | .ldI nnn => 0xA#4 ++ nnn
  | .jpV0 nnn => 0xB#4 ++ nnn
  | .rnd x kk => 0xC#4 ++ x ++ kk
  | .drw x y n => 0xD#4 ++ x ++ y ++ n
  | .skp x => 0xE#4 ++ x ++ 0x9E#8
  | .sknp x => 0xE#4 ++ x ++ 0xA1#8
  | .ldVDT x => 0xF#4 ++ x ++ 0x07#8
  | .ldVKey x => 0xF#4 ++ x ++ 0x0A#8
  | .ldDTV x => 0xF#4 ++ x ++ 0x15#8
  | .ldSTV x => 0xF#4 ++ x ++ 0x18#8
  | .addIV x => 0xF#4 ++ x ++ 0x1E#8
  | .ldFV x => 0xF#4 ++ x ++ 0x29#8
  | .ldBV x => 0xF#4 ++ x ++ 0x33#8
  | .ldMemV x => 0xF#4 ++ x ++ 0x55#8
  | .ldVMem x => 0xF#4 ++ x ++ 0x65#8

/-- The bytes of an instruction as memory holds them, lowest address first (20_memory.md R66). -/
def encodeBytes (i : Instr) : List Byte := [hiByte (encode i), loByte (encode i)]

/-! ## Table E3 as rows: ordinal, mask and match -/

/-- The dense ordinal 0..33 of a variant (30_encoding.md R91, table E3): no effect on the machine. -/
def Instr.ordinal : Instr → Nat
  | .cls => 0
  | .ret => 1
  | .jp _ => 2
  | .call _ => 3
  | .seVK _ _ => 4
  | .sneVK _ _ => 5
  | .seVV _ _ _ => 6
  | .ldVK _ _ => 7
  | .addVK _ _ => 8
  | .ldVV _ _ => 9
  | .orVV _ _ => 10
  | .andVV _ _ => 11
  | .xorVV _ _ => 12
  | .addVV _ _ => 13
  | .sub _ _ => 14
  | .shr _ _ => 15
  | .subn _ _ => 16
  | .shl _ _ => 17
  | .sneVV _ _ _ => 18
  | .ldI _ => 19
  | .jpV0 _ => 20
  | .rnd _ _ => 21
  | .drw _ _ _ => 22
  | .skp _ => 23
  | .sknp _ => 24
  | .ldVDT _ => 25
  | .ldVKey _ => 26
  | .ldDTV _ => 27
  | .ldSTV _ => 28
  | .addIV _ => 29
  | .ldFV _ => 30
  | .ldBV _ => 31
  | .ldMemV _ => 32
  | .ldVMem _ => 33

/-- A row of table E3: "A word w is variant v exactly when (w & mask_v) = match_v". -/
structure EncodingRow where
  mask : Word
  pattern : Word
deriving DecidableEq, Repr

/-- A word matches a row. -/
abbrev EncodingRow.matches (r : EncodingRow) (w : Word) : Prop := w &&& r.mask = r.pattern

/-- Table E3's rows of ordinals 0 to 18. -/
def encodingRowsLow : List EncodingRow :=
  [⟨0xFFFF, 0x00E0⟩, ⟨0xFFFF, 0x00EE⟩, ⟨0xF000, 0x1000⟩, ⟨0xF000, 0x2000⟩, ⟨0xF000, 0x3000⟩, ⟨0xF000, 0x4000⟩,
   ⟨0xF000, 0x5000⟩, ⟨0xF000, 0x6000⟩, ⟨0xF000, 0x7000⟩, ⟨0xF00F, 0x8000⟩, ⟨0xF00F, 0x8001⟩, ⟨0xF00F, 0x8002⟩,
   ⟨0xF00F, 0x8003⟩, ⟨0xF00F, 0x8004⟩, ⟨0xF00F, 0x8005⟩, ⟨0xF00F, 0x8006⟩, ⟨0xF00F, 0x8007⟩, ⟨0xF00F, 0x800E⟩,
   ⟨0xF000, 0x9000⟩]

/-- Table E3's rows of ordinals 19 to 33. -/
def encodingRowsHigh : List EncodingRow :=
  [⟨0xF000, 0xA000⟩, ⟨0xF000, 0xB000⟩, ⟨0xF000, 0xC000⟩, ⟨0xF000, 0xD000⟩, ⟨0xF0FF, 0xE09E⟩, ⟨0xF0FF, 0xE0A1⟩,
   ⟨0xF0FF, 0xF007⟩, ⟨0xF0FF, 0xF00A⟩, ⟨0xF0FF, 0xF015⟩, ⟨0xF0FF, 0xF018⟩, ⟨0xF0FF, 0xF01E⟩, ⟨0xF0FF, 0xF029⟩,
   ⟨0xF0FF, 0xF033⟩, ⟨0xF0FF, 0xF055⟩, ⟨0xF0FF, 0xF065⟩]

/-- Table E3, one row per variant, in the order of the ordinals. -/
def encodingRows : List EncodingRow := encodingRowsLow ++ encodingRowsHigh

end Sys2Proof
end

