-- ==== Sys2Proof/Machine/Defaults.lean ====
section
/-! DEFINITION. The default of every parameter of table P2 (00_scope.md R7). -/

namespace Sys2Proof.Machine

/-- Table P2's column "default". The source leaves each of these open and the spec chose it (92_eei_decisions.md D5, D8, D10, D12, D16, D17, D19). -/
def defaultConfig : Config where
  fontBase := 0x000
  shiftSrc := .vx
  logicVfReset := false
  reservedWrite := .fault
  fontDigit := .fault
  keyIndex := .fault
  resetFill := .zero

end Sys2Proof.Machine
end

