-- ==== Sys2Proof/Machine/State.lean ====
section
/-! DEFINITION. The state of the machine, all of table S2 (10_state.md), as plain data, and its value after reset. -/

namespace Sys2Proof.Machine

/-- The fault kinds of 60_exceptions.md table F1, in the order of their codes. Taking one is a step to a next state
whose status is FAULTED and whose fault record holds the kind (R238), so no step answers the outcome `fault` (log 5).
Each is safe: the engine stops where the spec says that it stops. -/
inductive Fault where
  /-- code 1: raised by the cycle, when the fetched word is INVALID (R231); safe -/
  | decodeFailure
  /-- code 2: raised by CALL with SP = 16 (R232); safe -/
  | stackOverflow
  /-- code 3: raised by RET with SP = 0 (R233); safe -/
  | stackUnderflow
  /-- code 4: raised by the fetch, Dxyn, Fx33, Fx55 and Fx65, when an access reaches an address above 0xFFF (R234); safe -/
  | memoryBounds
  /-- code 5: raised by Fx33 and Fx55 under RESERVED_WRITE_POLICY = FAULT, when the written range starts at or below 0x1FF (R235); safe -/
  | reservedWrite
  /-- code 6: raised by Ex9E, ExA1 and Fx29 under the policy FAULT, when V[x] > 0xF (R236); safe -/
  | operandRange
deriving DecidableEq, Repr

/-- Why a step has no meaning. -/
inductive Refusal where
  /-- an instruction without a meaning; no arm of exec answers it; safe -/
  | notModelled (mnemonic : String)
  /-- raised by the event RESET, whose image is longer than 3584 bytes: "not a valid argument of RESET; a model refuses it" (70_reset_and_hazards.md R261); safe -/
  | imageTooLong (length : Nat)
deriving DecidableEq, Repr

/-- The engine's status (10_state.md R34). -/
inductive Status where
  | ready
  | waitKey
  | faulted
deriving DecidableEq, Repr

/-- What a check that fails says: the kind, and the offending address or operand value where the kind has one (60_exceptions.md table F1). -/
structure FaultInfo where
  kind : Fault
  address : Option Word
  value : Option Byte
deriving DecidableEq, Repr

/-- The fault record (10_state.md R35): `word` is absent when the fetch itself faulted. -/
structure FaultRecord where
  info : FaultInfo
  pc : Word
  word : Option Word
deriving DecidableEq, Repr

/-- The host's events, each one atomic transition (10_state.md table S3). -/
inductive HostEvent where
  | reset (image : List Byte)
  | step
  | tick
  | setKeys (k : Word)
  | frameAck
deriving DecidableEq, Repr

/-- Memory: the bytes that differ from what an unlisted address reads as (Machine/Memory.lean), by rising address. -/
abbrev Memory := List Host.Cell

/-- Everything the spec gives the machine (10_state.md table S2), then the model's own fields. -/
structure State where
  /-- 4096 bytes (20_memory.md R60) -/
  mem : Memory
  /-- V0..VF (R20) -/
  v : Vector Byte 16
  /-- the index register I (R24) -/
  i : Word
  /-- the program counter (R25) -/
  pc : Word
  /-- SP: how many stack entries are in use (R27) -/
  sp : Fin 17
  /-- S[0..15] (R27) -/
  stack : Vector Word 16
  /-- the delay timer (R28) -/
  dt : Byte
  /-- the sound timer (R29) -/
  st : Byte
  /-- bit k: key k is pressed (R30) -/
  keys : Word
  /-- keys at the end of the previous completed cycle (R31) -/
  kprev : Word
  /-- Grid (R32) -/
  grid : Grid
  /-- the redraw flag (R33) -/
  redraw : Bool
  /-- the engine's status (R34) -/
  status : Status
  /-- the fault record, empty as `none` (R35) -/
  fault : Option FaultRecord
  /-- the model's own: the parameters of this instance, never written (log 1) -/
  config : Config
  /-- the model's own: the host's events still to come, oldest first; when there is none, the host sends STEP (log 2) -/
  inputs : List HostEvent
  /-- the model's own: the bytes the host drives on `rand`, one for each executed Cxkk (log 3) -/
  randIn : List Byte
  /-- the model's own: how many free values have been drawn (log 3) -/
  draws : Nat
deriving DecidableEq, Repr

/-- The machine right after RESET with an empty image and the default parameters (10_state.md table S2, 70_reset_and_hazards.md R260): memory lists nothing, so it holds the font and zeros. The stack entries, which the spec leaves unspecified, are 0 (DESIGN CHOICE, log 6). -/
def State.reset : State where
  mem := []
  v := Vector.replicate 16 0
  i := 0
  pc := 0x200
  sp := 0
  stack := Vector.replicate 16 0
  dt := 0
  st := 0
  keys := 0
  kprev := 0
  grid := Grid.blank
  redraw := false
  status := .ready
  fault := none
  config := defaultConfig
  inputs := []
  randIn := []
  draws := 0

end Sys2Proof.Machine
end

