-- ==== Sys2Proof/Machine/Memory.lean ====
section
/-! DEFINITION. Memory: its reset contents, one byte's read and write, and the canonical form. -/

namespace Sys2Proof.Machine

/-- Table M1, glyphs 0 to 7 (20_memory.md R63). -/
def glyphsLow : List Byte :=
  [0xF0, 0x90, 0x90, 0x90, 0xF0] ++ [0x20, 0x60, 0x20, 0x20, 0x70] ++ [0xF0, 0x10, 0xF0, 0x80, 0xF0] ++
  [0xF0, 0x10, 0xF0, 0x10, 0xF0] ++ [0x90, 0x90, 0xF0, 0x10, 0x10] ++ [0xF0, 0x80, 0xF0, 0x10, 0xF0] ++
  [0xF0, 0x80, 0xF0, 0x90, 0xF0] ++ [0xF0, 0x10, 0x20, 0x40, 0x40]

/-- Table M1, glyphs 8 to F (20_memory.md R63). -/
def glyphsHigh : List Byte :=
  [0xF0, 0x90, 0xF0, 0x90, 0xF0] ++ [0xF0, 0x90, 0xF0, 0x10, 0xF0] ++ [0xF0, 0x90, 0xF0, 0x90, 0x90] ++
  [0xE0, 0x90, 0xE0, 0x90, 0xE0] ++ [0xF0, 0x80, 0x80, 0x80, 0xF0] ++ [0xE0, 0x90, 0x90, 0x90, 0xE0] ++
  [0xF0, 0x80, 0xF0, 0x80, 0xF0] ++ [0xF0, 0x80, 0xF0, 0x80, 0x80]

/-- The 80 font bytes, glyph d at offset 5 * d (20_memory.md R63). -/
def fontBytes : List Byte := glyphsLow ++ glyphsHigh

/-- What an unlisted address reads as: the font at FONT_BASE..FONT_BASE+79, else 0x00 (20_memory.md R62 with RESET_FILL = ZERO, log 11). -/
def memFill (fontBase a : Nat) : Byte :=
  if fontBase ≤ a ∧ a < fontBase + fontSize then fontBytes.getD (a - fontBase) 0 else 0

/-- The byte listed at an address. -/
def memLookup (m : Memory) (a : Nat) : Option Byte :=
  match m with
  | [] => none
  | c :: rest => if c.1 = a then some c.2 else memLookup rest a

/-- Memory as a byte at an address. -/
def memByte (fontBase : Nat) (m : Memory) (a : Nat) : Byte := (memLookup m a).getD (memFill fontBase a)

/-- List the byte b at a, in place of what is listed there. -/
def memInsert (m : Memory) (a : Nat) (b : Byte) : Memory :=
  match m with
  | [] => [(a, b)]
  | c :: rest => if a < c.1 then (a, b) :: c :: rest else if a = c.1 then (a, b) :: rest else c :: memInsert rest a b

/-- List nothing at a. -/
def memErase (m : Memory) (a : Nat) : Memory :=
  match m with
  | [] => []
  | c :: rest => if c.1 = a then memErase rest a else c :: memErase rest a

/-- Write one byte, keeping the canonical form: the value an unlisted address reads as removes the entry. -/
def memPut (fontBase : Nat) (m : Memory) (a : Nat) (b : Byte) : Memory :=
  if b = memFill fontBase a then memErase m a else memInsert m a b

/-- Write a list of bytes at a, a+1, ... -/
def memPutBytes (fontBase : Nat) (m : Memory) (a : Nat) (bytes : List Byte) : Memory :=
  match bytes with
  | [] => m
  | b :: rest => memPut fontBase (memPutBytes fontBase m (a + 1) rest) a b

/-- The canonical form: addresses strictly rising and inside memory, no entry equal to what an unlisted address reads as. -/
abbrev Memory.wf (fontBase : Nat) (m : Memory) : Prop :=
  m.Pairwise (fun c d => c.1 < d.1) ∧ ∀ c ∈ m, c.1 < memSize ∧ c.2 ≠ memFill fontBase c.1

end Sys2Proof.Machine
end

