-- ==== Sys2Proof/Machine/Ops.lean ====
section
/-! DEFINITION. The shared operations: registers, checked memory accesses, and the three ways a cycle ends. -/

namespace Sys2Proof.Machine

/-- What a step answers. -/
abbrev Result := Host.Outcome State Fault Refusal

/-! ## General registers (10_state.md R20) -/

/-- `V[x]`. -/
def State.getV (s : State) (x : Nibble) : Byte := s.v[x.toNat]'x.isLt

/-- `V[x] <- b`. -/
def State.setV (s : State) (x : Nibble) (b : Byte) : State := { s with v := s.v.set x.toNat b x.isLt }

/-- The selector of VF (R21). -/
def regF : Nibble := 0xF

/-- `VF <- zext_8(f)` (42_alu_shift.md R140): exactly 0x00 or 0x01. -/
def flagByte (f : Bool) : Byte := if f then 0x01 else 0x00

/-- `V[i] <- vals[i]`, from register number `i` on (44_index_memory.md R196). -/
def State.loadRegs (s : State) (i : Nat) (vals : List Byte) : State :=
  match vals with
  | [] => s
  | b :: rest => (s.setV (BitVec.ofNat 4 i) b).loadRegs (i + 1) rest

/-- `[V[0], V[1], ..., V[x]]` (44_index_memory.md R195). -/
def State.regsUpTo (s : State) (x : Nibble) : List Byte :=
  (List.range (x.toNat + 1)).map fun i => s.getV (BitVec.ofNat 4 i)

/-! ## Memory accesses (20_memory.md R64, R65) -/

/-- The byte at an address. -/
def State.readByte (s : State) (a : Nat) : Byte := memByte s.config.fontBase s.mem a

/-- The n bytes at a, a+1, ... -/
def State.readBytes (s : State) (a n : Nat) : List Byte := (List.range n).map fun i => s.readByte (a + i)

/-- Store bytes at a, a+1, ..., unchecked. -/
def State.storeBytes (s : State) (a : Nat) (bytes : List Byte) : State :=
  { s with mem := memPutBytes s.config.fontBase s.mem a bytes }

/-- The lowest address of the range from `addr` on that lies outside memory: max(addr, 0x1000) (R64). -/
def lowestOutside (addr : Word) : Word := if addr.toNat < memSize then 0x1000 else addr

/-- The bounds check of n bytes at addr, on unbounded naturals (R64); no byte, no check. -/
def boundsCheck (addr : Word) (n : Nat) : Option FaultInfo :=
  if 0 < n ∧ memSize < addr.toNat + n then
    some { kind := .memoryBounds, address := some (lowestOutside addr), value := none }
  else none

/-- The reserved-write check (R65), for a range that has passed the bounds check. -/
def reservedCheck (policy : WritePolicy) (addr : Word) (n : Nat) : Option FaultInfo :=
  if policy = .fault ∧ 0 < n ∧ addr.toNat < reservedEnd then
    some { kind := .reservedWrite, address := some addr, value := none }
  else none

/-- `MemRead(addr, n)` (R64). -/
def State.memRead (s : State) (addr : Word) (n : Nat) : Except FaultInfo (List Byte) :=
  match boundsCheck addr n with
  | some f => .error f
  | none => .ok (s.readBytes addr.toNat n)

/-- `MemWrite(addr, n, bytes)` with n the length of bytes: both checks before any byte (R65). -/
def State.memWrite (s : State) (addr : Word) (bytes : List Byte) : Except FaultInfo State :=
  match boundsCheck addr bytes.length with
  | some f => .error f
  | none =>
    match reservedCheck s.config.reservedWrite addr bytes.length with
    | some f => .error f
    | none => .ok (s.storeBytes addr.toNat bytes)

/-- Instruction fetch: the big-endian word of the bytes at pc and pc + 1 (40_execution_engine.md R101). -/
def State.fetchWord (s : State) : Except FaultInfo Word :=
  match boundsCheck s.pc 2 with
  | some f => .error f
  | none => .ok (wordOfBytes (s.readByte s.pc.toNat) (s.readByte (s.pc.toNat + 1)))

/-! ## The program counter (40_execution_engine.md R104) -/

/-- `pc <- p + 2`. Sums wrap at 16 bits only in states no run reaches (10_state.md R26, log 9). -/
def State.advance (s : State) : State := { s with pc := s.pc + 2 }

/-- `pc <- target`. -/
def State.jump (s : State) (target : Word) : State := { s with pc := target }

/-! ## The end of a cycle (40_execution_engine.md R100) -/

/-- The state after NEXT: kprev <- keys, status <- READY. -/
def State.completed (s : State) : State := { s with kprev := s.keys, status := .ready }

/-- The state after WAIT: kprev <- keys, status <- WAIT_KEY, the pc stays. -/
def State.waiting (s : State) : State := { s with kprev := s.keys, status := .waitKey }

/-- TAKING A FAULT (60_exceptions.md R238, 40_execution_engine.md R105): status <- FAULTED and the fault record, and nothing else. There is no handler and no return (R240). -/
def State.faulted (s : State) (word : Option Word) (f : FaultInfo) : State :=
  { s with status := .faulted, fault := some { info := f, pc := s.pc, word := word } }

/-- NEXT(s'). -/
def complete (s : State) : Result := .next s.completed

/-- NEXT(s') of an instruction that goes on to p + 2. -/
def completeNext (s : State) : Result := complete s.advance

/-- WAIT. -/
def wait (s : State) : Result := .next s.waiting

/-- FAULT(k, info) of the instruction i at pc: the record's word is the instruction's own, which its encoding gives back (log 10). -/
def raise (i : Instr) (f : FaultInfo) (s : State) : Result := .next (s.faulted (some (encode i)) f)

/-- The checks that concern no address and no operand value: table F1's kinds 1 to 3. -/
def plainFault (k : Fault) : FaultInfo := { kind := k, address := none, value := none }

end Sys2Proof.Machine
end

