-- ==== Sys2Proof/Machine/Operands.lean ====
section
/-! DEFINITION. The operand forms: shift source, key and digit numbers, addresses, the key set, the rand input. -/

namespace Sys2Proof.Machine

/-- An address operand: zext_16(nnn) (30_encoding.md R82). -/
def addrOperand (nnn : Addr) : Word := nnn.setWidth 16

/-- The shift source s of 8xy6 and 8xyE (42_alu_shift.md R152, R155). -/
def State.shiftSource (s : State) (x y : Nibble) : Byte :=
  match s.config.shiftSrc with
  | .vx => s.getV x
  | .vy => s.getV y

/-- A key or digit number: 0..15, or what the policy says of a larger one (41 R128, R129; 44 R192). -/
def numberOperand (policy : IndexPolicy) (b : Byte) : Except FaultInfo Nibble :=
  if b.toNat ≤ 0xF then .ok (b.setWidth 4)
  else
    match policy with
    | .fault => .error { kind := .operandRange, address := none, value := some b }
    | .lowNibble => .ok (b.setWidth 4)

/-- `keys[k]`. -/
def keyBit (keys : Word) (k : Nibble) : Bool := keys.getLsbD k.toNat

/-- N of R214: the keys pressed now that were not pressed at the end of the previous completed cycle (R215). -/
def State.newlyPressed (s : State) : Word := s.keys &&& ~~~s.kprev

/-- min(N), or `none` when N is empty (45_timers_keys_random.md R214, R215). -/
def lowestKey (keys : Word) : Option Nibble :=
  ((List.range 16).find? fun k => keys.getLsbD k).map (BitVec.ofNat 4)

/-- Sample the `rand` input once (R217): the byte the host drives, or a free value where the model is told none (log 3). -/
def State.sampleRand (s : State) : Byte × State :=
  match s.randIn with
  | b :: rest => (b, { s with randIn := rest })
  | [] => (Config.freeRand s.draws, { s with draws := s.draws + 1 })

/-- The address of the glyph of a digit: FONT_BASE + 5 * d (44_index_memory.md R192). -/
def glyphAddress (fontBase : Nat) (d : Nibble) : Word := BitVec.ofNat 16 (fontBase + 5 * d.toNat)

/-- The decimal digits of a byte: hundreds, tens, ones (44_index_memory.md R193). -/
def decimalDigits (b : Byte) : List Byte :=
  [BitVec.ofNat 8 (b.toNat / 100), BitVec.ofNat 8 (b.toNat / 10 % 10), BitVec.ofNat 8 (b.toNat % 10)]

end Sys2Proof.Machine
end

