-- ==== Sys2Proof/Machine/Flags.lean ====
section
/-! DEFINITION. The block chip8_alu_shift (42_alu_shift.md table A1): every result and every flag. -/

namespace Sys2Proof.Machine

/-- The unit's function select (10_state.md R39). -/
inductive AluFn where
  | mov
  | or
  | and
  | xor
  | add
  | sub
  | shr
  | subn
  | shl
  | addk
deriving DecidableEq, Repr

/-- The unit's outputs (10_state.md R39). -/
structure AluOut where
  res : Byte
  flag : Bool
  flagWe : Bool
deriving DecidableEq, Repr

/-- (a + b) mod 256. -/
def addByte (a b : Byte) : Byte := BitVec.ofNat 8 (a.toNat + b.toNat)

/-- (a + 256 - b) mod 256. -/
def subByte (a b : Byte) : Byte := BitVec.ofNat 8 (a.toNat + 256 - b.toNat)

/-- a >> 1. -/
def shrByte (a : Byte) : Byte := BitVec.ofNat 8 (a.toNat / 2)

/-- (a * 2) mod 256. -/
def shlByte (a : Byte) : Byte := BitVec.ofNat 8 (a.toNat * 2)

/-- Carry: a + b > 255 (R142). -/
def carryFlag (a b : Byte) : Bool := decide (255 < a.toNat + b.toNat)

/-- Not-borrow: minuend >= subtrahend (R142, 90_conflicts.md C2). -/
def noBorrowFlag (minuend subtrahend : Byte) : Bool := decide (subtrahend.toNat ≤ minuend.toNat)

/-- The bit a right shift drops: a[0]. -/
def lowBitFlag (a : Byte) : Bool := a.getLsbD 0

/-- The bit a left shift drops: a[7]. -/
def highBitFlag (a : Byte) : Bool := a.getLsbD 7

/-- Table A1 (R140); `logicVfReset` is LOGIC_VF_RESET (R149). -/
def alu (logicVfReset : Bool) (fn : AluFn) (a b : Byte) : AluOut :=
  match fn with
  | .mov => ⟨b, false, false⟩
  | .or => ⟨a ||| b, false, logicVfReset⟩
  | .and => ⟨a &&& b, false, logicVfReset⟩
  | .xor => ⟨a ^^^ b, false, logicVfReset⟩
  | .add => ⟨addByte a b, carryFlag a b, true⟩
  | .sub => ⟨subByte a b, noBorrowFlag a b, true⟩
  | .shr => ⟨shrByte a, lowBitFlag a, true⟩
  | .subn => ⟨subByte b a, noBorrowFlag b a, true⟩
  | .shl => ⟨shlByte a, highBitFlag a, true⟩
  | .addk => ⟨addByte a b, false, false⟩

/-- Write the unit's result to V[x], then the flag to VF when flag_we = 1 (10_state.md R22). -/
def State.writeAlu (s : State) (x : Nibble) (o : AluOut) : State :=
  if o.flagWe then (s.setV x o.res).setV regF (flagByte o.flag) else s.setV x o.res

/-- An instruction of the arithmetic unit: V[x] and perhaps VF, then pc <- p + 2. -/
def aluInstr (fn : AluFn) (x : Nibble) (a b : Byte) (s : State) : Result :=
  completeNext (s.writeAlu x (alu s.config.logicVfReset fn a b))

end Sys2Proof.Machine
end

