-- ==== Sys2Proof/Machine/Alu.lean ====
section
/-! DEFINITION. The family of 42_alu_shift.md: register loads from immediates and the nine 8xy? instructions. -/

namespace Sys2Proof.Machine

/-- 6xkk (R143). -/
def execLdVK (x : Nibble) (kk : Byte) (s : State) : Result := completeNext (s.setV x kk)

/-- 7xkk (R144): no flag. -/
def execAddVK (x : Nibble) (kk : Byte) (s : State) : Result := aluInstr .addk x (s.getV x) kk s

/-- 8xy0 (R145). -/
def execLdVV (x y : Nibble) (s : State) : Result := aluInstr .mov x (s.getV x) (s.getV y) s

/-- 8xy1 (R146). -/
def execOrVV (x y : Nibble) (s : State) : Result := aluInstr .or x (s.getV x) (s.getV y) s

/-- 8xy2 (R147). -/
def execAndVV (x y : Nibble) (s : State) : Result := aluInstr .and x (s.getV x) (s.getV y) s

/-- 8xy3 (R148). -/
def execXorVV (x y : Nibble) (s : State) : Result := aluInstr .xor x (s.getV x) (s.getV y) s

/-- 8xy4 (R150). -/
def execAddVV (x y : Nibble) (s : State) : Result := aluInstr .add x (s.getV x) (s.getV y) s

/-- 8xy5 (R151). -/
def execSub (x y : Nibble) (s : State) : Result := aluInstr .sub x (s.getV x) (s.getV y) s

/-- 8xy6 (R152): the unit's `a` is the shift source (10_state.md R39). -/
def execShr (x y : Nibble) (s : State) : Result := aluInstr .shr x (s.shiftSource x y) (s.getV y) s

/-- 8xy7 (R153). -/
def execSubn (x y : Nibble) (s : State) : Result := aluInstr .subn x (s.getV x) (s.getV y) s

/-- 8xyE (R154): the unit's `a` is the shift source (10_state.md R39). -/
def execShl (x y : Nibble) (s : State) : Result := aluInstr .shl x (s.shiftSource x y) (s.getV y) s

end Sys2Proof.Machine
end

