-- ==== Sys2Proof/Machine/Control.lean ====
section
/-! DEFINITION. The family of 41_control_flow.md: jumps, call and return, the skips. -/

namespace Sys2Proof.Machine

/-- `pc <- p + 4` when the condition holds, else `pc <- p + 2` (40_execution_engine.md R104). -/
def skipIf (c : Bool) (s : State) : Result := complete (s.jump (if c then s.pc + 4 else s.pc + 2))

/-- Skip when key V[x] is in the state `pressed` (R128, R129). -/
def skipOnKey (i : Instr) (x : Nibble) (pressed : Bool) (s : State) : Result :=
  match numberOperand s.config.keyIndex (s.getV x) with
  | .error f => raise i f s
  | .ok k => skipIf (keyBit s.keys k == pressed) s

/-- 00EE (R121). -/
def execRet (s : State) : Result :=
  if h : 0 < s.sp.val then
    complete ({ s with sp := ⟨s.sp.val - 1, by omega⟩ }.jump (s.stack[s.sp.val - 1]'(by omega) + 2))
  else raise .ret (plainFault .stackUnderflow) s

/-- 1nnn (R120). -/
def execJp (nnn : Addr) (s : State) : Result := complete (s.jump (addrOperand nnn))

/-- 2nnn (R122): the pushed value is p itself. -/
def execCall (nnn : Addr) (s : State) : Result :=
  if h : s.sp.val < 16 then
    complete ({ s with stack := s.stack.set s.sp.val s.pc h, sp := ⟨s.sp.val + 1, by omega⟩ }.jump (addrOperand nnn))
  else raise (.call nnn) (plainFault .stackOverflow) s

/-- 3xkk (R123). -/
def execSeVK (x : Nibble) (kk : Byte) (s : State) : Result := skipIf (s.getV x == kk) s

/-- 4xkk (R124). -/
def execSneVK (x : Nibble) (kk : Byte) (s : State) : Result := skipIf (s.getV x != kk) s

/-- 5xyn (R125): every n. -/
def execSeVV (x y : Nibble) (s : State) : Result := skipIf (s.getV x == s.getV y) s

/-- 9xyn (R126): every n. -/
def execSneVV (x y : Nibble) (s : State) : Result := skipIf (s.getV x != s.getV y) s

/-- Bnnn (R127): V0, and no reduction to 12 bits. -/
def execJpV0 (nnn : Addr) (s : State) : Result := complete (s.jump (addrOperand nnn + (s.getV 0).setWidth 16))

/-- Ex9E (R128). -/
def execSkp (x : Nibble) (s : State) : Result := skipOnKey (.skp x) x true s

/-- ExA1 (R129). -/
def execSknp (x : Nibble) (s : State) : Result := skipOnKey (.sknp x) x false s

end Sys2Proof.Machine
end

