-- ==== Sys2Proof/Machine/IndexMem.lean ====
section
/-! DEFINITION. The family of 44_index_memory.md: I, the decimal store, the block store and load. -/

namespace Sys2Proof.Machine

/-- `I <- v`. -/
def State.setI (s : State) (a : Word) : State := { s with i := a }

/-- MemWrite at I, then pc <- p + 2; I is unchanged (R197). -/
def storeAtI (i : Instr) (bytes : List Byte) (s : State) : Result :=
  match s.memWrite s.i bytes with
  | .error f => raise i f s
  | .ok s' => completeNext s'

/-- Annn (R190). -/
def execLdI (nnn : Addr) (s : State) : Result := completeNext (s.setI (addrOperand nnn))

/-- Fx1E (R191): modulo 65536, VF unchanged, no check. -/
def execAddIV (x : Nibble) (s : State) : Result := completeNext (s.setI (s.i + (s.getV x).setWidth 16))

/-- Fx29 (R192). -/
def execLdFV (x : Nibble) (s : State) : Result :=
  match numberOperand s.config.fontDigit (s.getV x) with
  | .error f => raise (.ldFV x) f s
  | .ok d => completeNext (s.setI (glyphAddress s.config.fontBase d))

/-- Fx33 (R194). -/
def execLdBV (x : Nibble) (s : State) : Result := storeAtI (.ldBV x) (decimalDigits (s.getV x)) s

/-- Fx55 (R195). -/
def execLdMemV (x : Nibble) (s : State) : Result := storeAtI (.ldMemV x) (s.regsUpTo x) s

/-- Fx65 (R196). -/
def execLdVMem (x : Nibble) (s : State) : Result :=
  match s.memRead s.i (x.toNat + 1) with
  | .error f => raise (.ldVMem x) f s
  | .ok vals => completeNext (s.loadRegs 0 vals)

end Sys2Proof.Machine
end

