-- ==== Sys2Proof/Machine/Sprite.lean ====
section
/-! DEFINITION. The block chip8_sprite_compositor and the family of 43_sprite_compositor.md: clear and draw. -/

namespace Sys2Proof.Machine

/-- A column: x modulo 64 (R174). -/
def colOf (x : Nat) : Fin 64 := ⟨x % 64, Nat.mod_lt _ (by decide)⟩

/-- A row: y modulo 32 (R174). -/
def rowOf (y : Nat) : Fin 32 := ⟨y % 32, Nat.mod_lt _ (by decide)⟩

/-- `g[R][C] <- g[R][C] ^ 1`. -/
def flipPixel (g : Grid) (r : Fin 32) (c : Fin 64) : Grid := g.set r.val (g[r] ^^^ BitVec.twoPow 64 c.val)

/-- One sprite bit at (r, c): a set bit flips its pixel, and collides when the pixel was 1 (R170). -/
def drawBit (acc : Grid × Bool) (r : Fin 32) (c : Fin 64) (bit : Bool) : Grid × Bool :=
  if bit then (flipPixel acc.1 r c, acc.2 || acc.1.pixel r c) else acc

/-- One sprite row at screen row y: bit offset b is bit 7 - b of the byte (R170, R175). -/
def drawRow (acc : Grid × Bool) (x0 y : Nat) (row : Byte) : Grid × Bool :=
  [0, 1, 2, 3, 4, 5, 6, 7].foldl (fun acc b => drawBit acc (rowOf y) (colOf (x0 + b)) (row.getLsbD (7 - b))) acc

/-- The sprite rows from screen row y down. -/
def drawRows (acc : Grid × Bool) (x0 y : Nat) (rows : List Byte) : Grid × Bool :=
  match rows with
  | [] => acc
  | row :: rest => drawRows (drawRow acc x0 y row) x0 (y + 1) rest

/-- The draw function: the grid after it and the collision bit (R170). -/
def draw (g : Grid) (x0 y0 : Byte) (rows : List Byte) : Grid × Bool := drawRows (g, false) x0.toNat y0.toNat rows

/-- The clear function: every pixel 0 and collision 0 (R171). -/
def clearGrid : Grid × Bool := (Grid.blank, false)

/-- The block's interface (10_state.md R40). -/
def compositor (g : Grid) (x0 y0 : Byte) (rows : List Byte) (clear : Bool) : Grid × Bool :=
  if clear then clearGrid else draw g x0 y0 rows

/-- Take the compositor's grid and set redraw (10_state.md R33). -/
def State.setDisplay (s : State) (g : Grid) : State := { s with grid := g, redraw := true }

/-- 00E0 (R172). -/
def execCls (s : State) : Result := completeNext (s.setDisplay (compositor s.grid 0 0 [] true).1)

/-- Dxyn (R173): coordinates, I and the rows are read before VF is written. -/
def execDrw (x y n : Nibble) (s : State) : Result :=
  match s.memRead s.i n.toNat with
  | .error f => raise (.drw x y n) f s
  | .ok rows =>
    let out := compositor s.grid (s.getV x) (s.getV y) rows false
    completeNext ((s.setDisplay out.1).setV regF (flagByte out.2))

end Sys2Proof.Machine
end

