-- ==== Sys2Proof/Machine/TimersKeys.lean ====
section
/-! DEFINITION. The family of 45_timers_keys_random.md: timers, key wait, random byte. -/

namespace Sys2Proof.Machine

/-- `DT <- b`. -/
def State.setDT (s : State) (b : Byte) : State := { s with dt := b }

/-- `ST <- b`. -/
def State.setST (s : State) (b : Byte) : State := { s with st := b }

/-- Fx07 (R211). -/
def execLdVDT (x : Nibble) (s : State) : Result := completeNext (s.setV x s.dt)

/-- Fx15 (R212). -/
def execLdDTV (x : Nibble) (s : State) : Result := completeNext (s.setDT (s.getV x))

/-- Fx18 (R213). -/
def execLdSTV (x : Nibble) (s : State) : Result := completeNext (s.setST (s.getV x))

/-- Fx0A (R214): wait while no key is newly pressed, else the lowest of them. -/
def execLdVKey (x : Nibble) (s : State) : Result :=
  match lowestKey s.newlyPressed with
  | none => wait s
  | some k => completeNext (s.setV x (k.setWidth 8))

/-- Cxkk (R216). -/
def execRnd (x : Nibble) (kk : Byte) (s : State) : Result :=
  completeNext (s.sampleRand.2.setV x (s.sampleRand.1 &&& kk))

end Sys2Proof.Machine
end

