-- ==== Sys2Proof/Machine/Dispatch.lean ====
section
/-! DEFINITION. Dispatch: exactly one handler per variant (40_execution_engine.md R103, table X1). -/

namespace Sys2Proof.Machine

def exec (i : Instr) (s : State) : Host.Outcome State Fault Refusal :=
  match i with
  | .cls => Sys2Proof.Machine.execCls s
  | .ret => Sys2Proof.Machine.execRet s
  | .jp nnn => Sys2Proof.Machine.execJp nnn s
  | .call nnn => Sys2Proof.Machine.execCall nnn s
  | .seVK x kk => Sys2Proof.Machine.execSeVK x kk s
  | .sneVK x kk => Sys2Proof.Machine.execSneVK x kk s
  | .seVV x y _ => Sys2Proof.Machine.execSeVV x y s
  | .ldVK x kk => Sys2Proof.Machine.execLdVK x kk s
  | .addVK x kk => Sys2Proof.Machine.execAddVK x kk s
  | .ldVV x y => Sys2Proof.Machine.execLdVV x y s
  | .orVV x y => Sys2Proof.Machine.execOrVV x y s
  | .andVV x y => Sys2Proof.Machine.execAndVV x y s
  | .xorVV x y => Sys2Proof.Machine.execXorVV x y s
  | .addVV x y => Sys2Proof.Machine.execAddVV x y s
  | .sub x y => Sys2Proof.Machine.execSub x y s
  | .shr x y => Sys2Proof.Machine.execShr x y s
  | .subn x y => Sys2Proof.Machine.execSubn x y s
  | .shl x y => Sys2Proof.Machine.execShl x y s
  | .sneVV x y _ => Sys2Proof.Machine.execSneVV x y s
  | .ldI nnn => Sys2Proof.Machine.execLdI nnn s
  | .jpV0 nnn => Sys2Proof.Machine.execJpV0 nnn s
  | .rnd x kk => Sys2Proof.Machine.execRnd x kk s
  | .drw x y n => Sys2Proof.Machine.execDrw x y n s
  | .skp x => Sys2Proof.Machine.execSkp x s
  | .sknp x => Sys2Proof.Machine.execSknp x s
  | .ldVDT x => Sys2Proof.Machine.execLdVDT x s
  | .ldVKey x => Sys2Proof.Machine.execLdVKey x s
  | .ldDTV x => Sys2Proof.Machine.execLdDTV x s
  | .ldSTV x => Sys2Proof.Machine.execLdSTV x s
  | .addIV x => Sys2Proof.Machine.execAddIV x s
  | .ldFV x => Sys2Proof.Machine.execLdFV x s
  | .ldBV x => Sys2Proof.Machine.execLdBV x s
  | .ldMemV x => Sys2Proof.Machine.execLdMemV x s
  | .ldVMem x => Sys2Proof.Machine.execLdVMem x s

end Sys2Proof.Machine
end

