-- ==== Sys2Proof/Machine/Events.lean ====
section
/-! DEFINITION. The host events other than STEP (10_state.md table S3), and the outputs (R41). -/

namespace Sys2Proof.Machine

/-- A timer's tick: down by one while it is non-zero (45_timers_keys_random.md R210). -/
def tickTimer (t : Byte) : Byte := if t = 0 then 0 else t - 1

/-- TICK (R210), in every status. -/
def State.tick (s : State) : State := { s with dt := tickTimer s.dt, st := tickTimer s.st }

/-- SET_KEYS(k): all 16 flags at once (10_state.md R30). -/
def State.setKeys (s : State) (k : Word) : State := { s with keys := k }

/-- FRAME_ACK (10_state.md R33). -/
def State.frameAck (s : State) : State := { s with redraw := false }

/-- Memory before the image is loaded: font and zeros, or font and draws (20_memory.md R62). -/
def resetMemory (c : Config) (draw : Nat) : Memory :=
  match c.resetFill with
  | .zero => []
  | .arbitrary =>
    let below := memPutBytes c.fontBase [] 0 ((List.range c.fontBase).map (Config.freeMem draw))
    let above := (List.range (memSize - (c.fontBase + fontSize))).map fun k => Config.freeMem draw (c.fontBase + fontSize + k)
    memPutBytes c.fontBase below (c.fontBase + fontSize) above

/-- The stack after RESET with RESET_FILL = ARBITRARY: a return address in each entry that the drawn SP counts as in use, within the bound of 10_state.md R26, and any word in the others (R27, log 7). -/
def arbitraryStack (draw : Nat) : Vector Word 16 :=
  Vector.ofFn fun k : Fin 16 =>
    if k.val < (Config.freeSP draw).val then BitVec.ofNat 16 (Config.freeReturn draw k.val).val
    else Config.freeStack draw k.val

/-- The registers, timers, keypad and display after RESET (10_state.md table S2). With RESET_FILL = ARBITRARY each is a free draw, SP too (decision D5, log 7). -/
def State.resetRegisters (s : State) : State :=
  match s.config.resetFill with
  | .zero =>
    { s with v := Vector.replicate 16 0, i := 0, sp := 0, stack := Vector.replicate 16 0, dt := 0, st := 0,
             keys := 0, kprev := 0, grid := Grid.blank, redraw := false }
  | .arbitrary =>
    { s with v := Vector.ofFn fun k : Fin 16 => Config.freeV s.draws k.val, i := Config.freeI s.draws,
             sp := Config.freeSP s.draws, stack := arbitraryStack s.draws,
             dt := Config.freeDT s.draws, st := Config.freeST s.draws,
             keys := Config.freeKeys s.draws, kprev := Config.freeKprev s.draws,
             grid := Vector.ofFn fun r : Fin 32 => Config.freeGridRow s.draws r.val,
             redraw := Config.freeRedraw s.draws, draws := s.draws + 1 }

/-- RESET(image) with a valid image, in the order of 70_reset_and_hazards.md R260. The model's own fields config, inputs and randIn are the host's and stay (log 13). -/
def State.resetWith (s : State) (image : List Byte) : State :=
  { s.resetRegisters with
    mem := memPutBytes s.config.fontBase (resetMemory s.config s.draws) programBase image
    pc := 0x200
    status := .ready
    fault := none }

/-- RESET(image): an image longer than 3584 bytes is refused (R261). -/
def resetEvent (image : List Byte) (s : State) : Result :=
  if imageWellFormed image then .next (s.resetWith image) else .refused (.imageTooLong image.length)

/-- What the host may read between events (10_state.md R41). -/
structure Outputs where
  grid : Grid
  redraw : Bool
  tone : Bool
  status : Status
  fault : Option FaultRecord
deriving DecidableEq, Repr

/-- The outputs; `tone` is 1 exactly when ST != 0 (10_state.md R29). -/
def State.outputs (s : State) : Outputs := ⟨s.grid, s.redraw, s.st != 0, s.status, s.fault⟩

/-- The numeric code of a fault kind (60_exceptions.md table F1). -/
def Fault.code (k : Fault) : Nat :=
  match k with
  | .decodeFailure => 1
  | .stackOverflow => 2
  | .stackUnderflow => 3
  | .memoryBounds => 4
  | .reservedWrite => 5
  | .operandRange => 6

end Sys2Proof.Machine
end

