-- ==== Sys2Proof/Machine/Cycle.lean ====
section
/-! DEFINITION. One STEP of the engine (40_execution_engine.md R100), one host event, and placing a word for the fetch. -/

namespace Sys2Proof.Machine

/-- STEP (R100): nothing while FAULTED; else fetch, decode, and the instruction's handler. -/
def cycle (s : State) : Result :=
  if s.status = .faulted then .next s
  else
    match s.fetchWord with
    | .error f => .next (s.faulted none f)
    | .ok w =>
      match decodeWord w with
      | none => .next (s.faulted (some w) (plainFault .decodeFailure))
      | some i => exec i s

/-- One host event, one atomic transition (10_state.md table S3). -/
def hostEvent (e : HostEvent) (s : State) : Result :=
  match e with
  | .reset image => resetEvent image s
  | .step => cycle s
  | .tick => .next s.tick
  | .setKeys k => .next (s.setKeys k)
  | .frameAck => .next s.frameAck

/-- The next host event: the oldest of `inputs`, or STEP when there is none (log 2). -/
def nextEvent (s : State) : Result :=
  match s.inputs with
  | [] => hostEvent .step s
  | e :: rest => hostEvent e { s with inputs := rest }

/-- Make the next transition a STEP that can fetch: no event before it, not FAULTED, pc <= 0xFFE. -/
def State.readyToFetch (s : State) : State :=
  { s with
    inputs := []
    status := if s.status = .faulted then .ready else s.status
    fault := if s.status = .faulted then none else s.fault
    pc := if s.pc.toNat ≤ 0xFFE then s.pc else 0x200 }

/-- Place a word where the next fetch reads it. -/
def State.placeWord (s : State) (w : Word) : State :=
  s.readyToFetch.storeBytes s.readyToFetch.pc.toNat [hiByte w, loByte w]

end Sys2Proof.Machine
end

