-- ==== Sys2Proof/Machine/Step.lean ====
section
/-! DEFINITION. The machine's step, and placing an instruction where the step fetches. -/

namespace Sys2Proof.Machine

/-- One transition: one host event, STEP unless `inputs` names another (10_state.md R42). -/
def step (s : State) : Host.Outcome State Fault Refusal := nextEvent s

/-- s with an opcode-table word stored where `step` fetches its next instruction, and nothing before that fetch (log 12). -/
def State.withFetchWord (s : State) (nbits w : Nat) : State := s.placeWord (tableWord nbits w)

end Sys2Proof.Machine
end

