-- ==== Sys2Proof/Safety.lean ====
section
/-! DEFINITION. The terms statements use: how a cycle ends, what it leaves unchanged, and the invariants of the machine. -/

namespace Sys2Proof.Machine

/-- The pieces of state besides pc, kprev, status, the fault record and the general registers that an instruction may write (10_state.md table S1). -/
inductive Part where
  | memory
  | index
  | stack
  | delayTimer
  | soundTimer
  | display
  | rand
deriving DecidableEq, Repr

/-- From s to t every general register outside `regs` and every piece outside `parts` is unchanged; keys, the parameters and the host's coming events always are. -/
structure Frame (s t : State) (regs : List Nibble) (parts : List Part) : Prop where
  regs_same : ∀ r, r ∉ regs → t.getV r = s.getV r
  memory_same : Part.memory ∉ parts → ∀ a, t.readByte a = s.readByte a
  index_same : Part.index ∉ parts → t.i = s.i
  sp_same : Part.stack ∉ parts → t.sp = s.sp
  stack_same : Part.stack ∉ parts → t.stack = s.stack
  dt_same : Part.delayTimer ∉ parts → t.dt = s.dt
  st_same : Part.soundTimer ∉ parts → t.st = s.st
  grid_same : Part.display ∉ parts → t.grid = s.grid
  redraw_same : Part.display ∉ parts → t.redraw = s.redraw
  randIn_same : Part.rand ∉ parts → t.randIn = s.randIn
  draws_same : Part.rand ∉ parts → t.draws = s.draws
  keys_same : t.keys = s.keys
  config_same : t.config = s.config
  inputs_same : t.inputs = s.inputs

/-- The cycle from s to t ended with NEXT (40_execution_engine.md R100): kprev <- keys, status <- READY, the fault record as before. -/
structure CycleEnds (s t : State) : Prop where
  kprev_sampled : t.kprev = s.keys
  status_ready : t.status = .ready
  fault_same : t.fault = s.fault

/-- The cycle from s to t raised a fault (60_exceptions.md R238): status and the fault record are written, and t is s in every other field. -/
def TookFault (s t : State) (word : Option Word) (f : FaultInfo) : Prop :=
  t = { s with status := .faulted, fault := some { info := f, pc := s.pc, word := word } }

/-- Every address outside lo..lo+n-1 reads in t as in s. -/
def SameMemoryOutside (s t : State) (lo n : Nat) : Prop := ∀ a, a < lo ∨ lo + n ≤ a → t.readByte a = s.readByte a

/-- MEMORY_BOUNDS at an address (60_exceptions.md R234). -/
def boundsFault (address : Word) : FaultInfo := { kind := .memoryBounds, address := some address, value := none }

/-- The memory list is in its canonical form. -/
abbrev memoryCanonical (s : State) : Prop := Memory.wf s.config.fontBase s.mem

/-- The bounds of 10_state.md R26: pc is at most 0x10FE, and every stack entry in use at most 0xFFE. -/
def pcBounded (s : State) : Prop :=
  s.pc.toNat ≤ 0x10FE ∧ ∀ (j : Nat) (h : j < 16), j < s.sp.val → (s.stack[j]).toNat ≤ 0xFFE

/-- The fault record is empty except in FAULTED (10_state.md R35). -/
def faultRecordAgrees (s : State) : Prop := s.status = .faulted ↔ s.fault.isSome = true

/-- A grid cell that a set bit of the sprite meets (43_sprite_compositor.md R170): row (y0 + k) mod 32, column (x0 + b) mod 64. -/
def spriteCovers (x0 y0 : Byte) (rows : List Byte) (r : Fin 32) (c : Fin 64) : Prop :=
  ∃ k b : Nat, k < rows.length ∧ b < 8 ∧ (y0.toNat + k) % 32 = r.val ∧ (x0.toNat + b) % 64 = c.val ∧
    (rows.getD k 0).getLsbD (7 - b) = true

/-- The condition of a skip (41_control_flow.md R123 to R126, R128, R129); no other instruction has one. -/
def skipTaken (i : Instr) (s : State) : Prop :=
  match i with
  | .seVK x kk => (s.getV x).toNat = kk.toNat
  | .sneVK x kk => (s.getV x).toNat ≠ kk.toNat
  | .seVV x y _ => (s.getV x).toNat = (s.getV y).toNat
  | .sneVV x y _ => (s.getV x).toNat ≠ (s.getV y).toNat
  | .skp x => s.keys.getLsbD ((s.getV x).toNat % 16) = true
  | .sknp x => s.keys.getLsbD ((s.getV x).toNat % 16) = false
  | _ => False

/-- The general registers an instruction may write (10_state.md table S1, R21). -/
def mayWriteReg (c : Config) (i : Instr) (r : Nibble) : Prop :=
  match i with
  | .ldVK x _ | .addVK x _ | .ldVV x _ | .rnd x _ | .ldVDT x | .ldVKey x => r = x
  | .orVV x _ | .andVV x _ | .xorVV x _ => r = x ∨ (c.logicVfReset = true ∧ r = 0xF)
  | .addVV x _ | .sub x _ | .shr x _ | .subn x _ | .shl x _ => r = x ∨ r = 0xF
  | .drw _ _ _ => r = 0xF
  | .ldVMem x => r.toNat ≤ x.toNat
  | _ => False

/-- The two states differ at most in stack entries that are not in use (10_state.md R27). -/
def SameButUnusedStack (s t : State) : Prop :=
  t = { s with stack := t.stack } ∧ ∀ (j : Nat) (h : j < 16), j < s.sp.val → t.stack[j] = s.stack[j]

end Sys2Proof.Machine
end

