-- ==== Sys2Proof/Certificates/Slice0/Obligations.lean ====
section
/-! DEFINITION. The statements for the provers. "Frame" lists every register and piece of state the statement lets change; pc may change; kprev, status and the fault record are said by CycleEnds (40_execution_engine.md R100). -/

open Sys2Proof Sys2Proof.Machine

/-! ## Encoding -/

/-- Decoding the word of any instruction gives that instruction back, every operand at every value; and so do its two bytes, the high byte at the lower address, whatever bytes follow. The bit patterns are the spec's decision D3. -/
def Obligations.DecodeOfEncode : Prop :=
  ∀ (i : Instr) (rest : List Byte), decodeWord (encode i) = some i ∧ decode (encodeBytes i ++ rest) = .ok (i, rest)

/-- A word has one meaning: what decodes to i is the word of i, so no bit of a word is dropped. -/
def Obligations.EncodeOfDecode : Prop := ∀ (w : Word) (i : Instr), decodeWord w = some i → encode i = w

/-- 30_encoding.md R86: classes 0x1 to 0x7 and 0x9 to 0xD are decided by the top nibble alone, whatever the other bits; the last clause: n has no effect on 5xyn and 9xyn. -/
def Obligations.TopNibbleClassesDecodeWhateverTheOtherBits : Prop :=
  (∀ w : Word,
    (w.extractLsb' 12 4 = 0x1 → decodeWord w = some (.jp (w.extractLsb' 0 12))) ∧
    (w.extractLsb' 12 4 = 0x2 → decodeWord w = some (.call (w.extractLsb' 0 12))) ∧
    (w.extractLsb' 12 4 = 0x3 → decodeWord w = some (.seVK (w.extractLsb' 8 4) (w.extractLsb' 0 8))) ∧
    (w.extractLsb' 12 4 = 0x4 → decodeWord w = some (.sneVK (w.extractLsb' 8 4) (w.extractLsb' 0 8))) ∧
    (w.extractLsb' 12 4 = 0x5 →
      decodeWord w = some (.seVV (w.extractLsb' 8 4) (w.extractLsb' 4 4) (w.extractLsb' 0 4))) ∧
    (w.extractLsb' 12 4 = 0x6 → decodeWord w = some (.ldVK (w.extractLsb' 8 4) (w.extractLsb' 0 8))) ∧
    (w.extractLsb' 12 4 = 0x7 → decodeWord w = some (.addVK (w.extractLsb' 8 4) (w.extractLsb' 0 8))) ∧
    (w.extractLsb' 12 4 = 0x9 →
      decodeWord w = some (.sneVV (w.extractLsb' 8 4) (w.extractLsb' 4 4) (w.extractLsb' 0 4))) ∧
    (w.extractLsb' 12 4 = 0xA → decodeWord w = some (.ldI (w.extractLsb' 0 12))) ∧
    (w.extractLsb' 12 4 = 0xB → decodeWord w = some (.jpV0 (w.extractLsb' 0 12))) ∧
    (w.extractLsb' 12 4 = 0xC → decodeWord w = some (.rnd (w.extractLsb' 8 4) (w.extractLsb' 0 8))) ∧
    (w.extractLsb' 12 4 = 0xD →
      decodeWord w = some (.drw (w.extractLsb' 8 4) (w.extractLsb' 4 4) (w.extractLsb' 0 4)))) ∧
  ∀ (x y n m : Nibble) (s : State),
    exec (.seVV x y n) s = exec (.seVV x y m) s ∧ exec (.sneVV x y n) s = exec (.sneVV x y m) s

/-- 30_encoding.md R90's list of the INVALID words (the spec derives it from R84; its class 0 is decision D2, D4). -/
def Obligations.InvalidWordsAreExactlyTheListed : Prop :=
  ∀ w : Word, decodeWord w = none ↔
    (w.toNat / 4096 = 0x0 ∧ w.toNat ≠ 0x00E0 ∧ w.toNat ≠ 0x00EE) ∨
    (w.toNat / 4096 = 0x8 ∧ w.toNat % 16 ∈ [0x8, 0x9, 0xA, 0xB, 0xC, 0xD, 0xF]) ∨
    (w.toNat / 4096 = 0xE ∧ w.toNat % 256 ∉ [0x9E, 0xA1]) ∨
    (w.toNat / 4096 = 0xF ∧ w.toNat % 256 ∉ [0x07, 0x0A, 0x15, 0x18, 0x1E, 0x29, 0x33, 0x55, 0x65])

/-- 30_encoding.md table E3 as masks and matches: a word decodes to a variant exactly when it matches that variant's row, and no word matches two rows (the spec derives it from R84). -/
def Obligations.DecoderAgreesWithTheMaskAndMatchRows : Prop :=
  (∀ (w : Word) (k : Nat) (h : k < encodingRows.length),
    (encodingRows[k]).matches w ↔ ∃ i, decodeWord w = some i ∧ i.ordinal = k) ∧
  encodingRows.length = 34 ∧
  ∀ (w : Word) (j k : Nat) (hj : j < encodingRows.length) (hk : k < encodingRows.length),
    (encodingRows[j]).matches w → (encodingRows[k]).matches w → j = k

/-- Words of 95_test_vectors.md, one or more of every family, decode to the instructions they stand for. -/
def Obligations.WrittenOutWordsDecode : Prop :=
  decodeWord 0x00E0 = some .cls ∧ decodeWord 0x00EE = some .ret ∧ decodeWord 0x1ABC = some (.jp 0xABC) ∧
  decodeWord 0x3A12 = some (.seVK 0xA 0x12) ∧ decodeWord 0x5AB7 = some (.seVV 0xA 0xB 0x7) ∧
  decodeWord 0x8ABE = some (.shl 0xA 0xB) ∧ decodeWord 0xD125 = some (.drw 1 2 5) ∧
  decodeWord 0xE19E = some (.skp 1) ∧ decodeWord 0xF10A = some (.ldVKey 1) ∧ decodeWord 0xF155 = some (.ldMemV 1) ∧
  decodeWord 0x0000 = none ∧ decodeWord 0x01E0 = none ∧ decodeWord 0x8AB8 = none ∧ decodeWord 0xF1FF = none

/-! ## Register loads and the arithmetic unit (42_alu_shift.md) -/

/-- R143 and R145: V[x] <- kk; V[x] <- V[y]. -/
def Obligations.LoadImmediateAndMove : Prop :=
  ∀ (x y : Nibble) (kk : Byte) (s : State),
    decodeWord (0x6#4 ++ x ++ kk) = some (.ldVK x kk) ∧ decodeWord (0x8#4 ++ x ++ y ++ 0x0#4) = some (.ldVV x y) ∧
    (∃ t, exec (.ldVK x kk) s = .next t ∧ t.getV x = kk ∧ t.pc = s.pc + 2 ∧ CycleEnds s t ∧ Frame s t [x] []) ∧
    ∃ t, exec (.ldVV x y) s = .next t ∧ t.getV x = s.getV y ∧ t.pc = s.pc + 2 ∧ CycleEnds s t ∧ Frame s t [x] []

/-- R144: V[x] <- (V[x] + kk) mod 256, and VF unchanged unless x = 0xF (the spec's decision D13). -/
def Obligations.AddImmediateWrapsAndWritesNoFlag : Prop :=
  ∀ (x : Nibble) (kk : Byte) (s : State),
    decodeWord (0x7#4 ++ x ++ kk) = some (.addVK x kk) ∧
    ∃ t, exec (.addVK x kk) s = .next t ∧ (t.getV x).toNat = ((s.getV x).toNat + kk.toNat) % 256 ∧
      t.pc = s.pc + 2 ∧ CycleEnds s t ∧ Frame s t [x] []

/-- R146 to R149: the bitwise operations; VF is left, or becomes 0x00 after the result, as LOGIC_VF_RESET says (the spec's decision D12). -/
def Obligations.LogicOperations : Prop :=
  ∀ (x y code : Nibble) (s : State) (i : Instr) (f : Bool → Bool → Bool),
    (i = .orVV x y ∧ code = 0x1 ∧ f = or) ∨ (i = .andVV x y ∧ code = 0x2 ∧ f = and) ∨
      (i = .xorVV x y ∧ code = 0x3 ∧ f = xor) →
    decodeWord (0x8#4 ++ x ++ y ++ code) = some i ∧
    ∃ t, exec i s = .next t ∧
      (s.config.logicVfReset = false → Frame s t [x] []) ∧
      (s.config.logicVfReset = true → t.getV 0xF = 0x00 ∧ Frame s t [x, 0xF] []) ∧
      (s.config.logicVfReset = false ∨ x ≠ 0xF →
        ∀ b, b < 8 → (t.getV x).getLsbD b = f ((s.getV x).getLsbD b) ((s.getV y).getLsbD b)) ∧
      t.pc = s.pc + 2 ∧ CycleEnds s t

/-- R150: V[x] <- (V[x] + V[y]) mod 256, then VF <- carry, which wins when x = 0xF. -/
def Obligations.AddWithCarry : Prop :=
  ∀ (x y : Nibble) (s : State),
    decodeWord (0x8#4 ++ x ++ y ++ 0x4#4) = some (.addVV x y) ∧
    ∃ t, exec (.addVV x y) s = .next t ∧
      (x ≠ 0xF → (t.getV x).toNat = ((s.getV x).toNat + (s.getV y).toNat) % 256) ∧
      t.getV 0xF = (if 255 < (s.getV x).toNat + (s.getV y).toNat then 0x01 else 0x00) ∧
      t.pc = s.pc + 2 ∧ CycleEnds s t ∧ Frame s t [x, 0xF] []

/-- R151: V[x] <- (V[x] + 256 - V[y]) mod 256, then VF <- 1 exactly when V[x] >= V[y]. -/
def Obligations.SubtractSetsNotBorrow : Prop :=
  ∀ (x y : Nibble) (s : State),
    decodeWord (0x8#4 ++ x ++ y ++ 0x5#4) = some (.sub x y) ∧
    ∃ t, exec (.sub x y) s = .next t ∧
      (x ≠ 0xF → (t.getV x).toNat = ((s.getV x).toNat + 256 - (s.getV y).toNat) % 256) ∧
      t.getV 0xF = (if (s.getV y).toNat ≤ (s.getV x).toNat then 0x01 else 0x00) ∧
      t.pc = s.pc + 2 ∧ CycleEnds s t ∧ Frame s t [x, 0xF] []

/-- R153: V[x] <- (V[y] + 256 - V[x]) mod 256, then VF <- 1 exactly when V[y] >= V[x]. -/
def Obligations.ReverseSubtractSetsNotBorrow : Prop :=
  ∀ (x y : Nibble) (s : State),
    decodeWord (0x8#4 ++ x ++ y ++ 0x7#4) = some (.subn x y) ∧
    ∃ t, exec (.subn x y) s = .next t ∧
      (x ≠ 0xF → (t.getV x).toNat = ((s.getV y).toNat + 256 - (s.getV x).toNat) % 256) ∧
      t.getV 0xF = (if (s.getV x).toNat ≤ (s.getV y).toNat then 0x01 else 0x00) ∧
      t.pc = s.pc + 2 ∧ CycleEnds s t ∧ Frame s t [x, 0xF] []

/-- R152: V[x] <- s >> 1, then VF <- s[0], for the shift source s that SHIFT_SRC names. -/
def Obligations.ShiftRightKeepsTheDroppedBit : Prop :=
  ∀ (x y : Nibble) (s : State),
    decodeWord (0x8#4 ++ x ++ y ++ 0x6#4) = some (.shr x y) ∧
    ∃ t src, (s.config.shiftSrc = .vx → src = s.getV x) ∧ (s.config.shiftSrc = .vy → src = s.getV y) ∧
      exec (.shr x y) s = .next t ∧
      (x ≠ 0xF → (t.getV x).toNat = src.toNat / 2) ∧ (t.getV 0xF).toNat = src.toNat % 2 ∧
      t.pc = s.pc + 2 ∧ CycleEnds s t ∧ Frame s t [x, 0xF] []

/-- R154: V[x] <- (s << 1) mod 256, then VF <- s[7], for the shift source s that SHIFT_SRC names. -/
def Obligations.ShiftLeftKeepsTheDroppedBit : Prop :=
  ∀ (x y : Nibble) (s : State),
    decodeWord (0x8#4 ++ x ++ y ++ 0xE#4) = some (.shl x y) ∧
    ∃ t src, (s.config.shiftSrc = .vx → src = s.getV x) ∧ (s.config.shiftSrc = .vy → src = s.getV y) ∧
      exec (.shl x y) s = .next t ∧
      (x ≠ 0xF → (t.getV x).toNat = src.toNat * 2 % 256) ∧ (t.getV 0xF).toNat = src.toNat / 128 ∧
      t.pc = s.pc + 2 ∧ CycleEnds s t ∧ Frame s t [x, 0xF] []

/-! ## Control transfer (41_control_flow.md) -/

/-- R120: pc <- nnn. -/
def Obligations.JumpGoesToTheAddress : Prop :=
  ∀ (nnn : Addr) (s : State),
    decodeWord (0x1#4 ++ nnn) = some (.jp nnn) ∧
    ∃ t, exec (.jp nnn) s = .next t ∧ t.pc.toNat = nnn.toNat ∧ CycleEnds s t ∧ Frame s t [] []

/-- R121 and R233: RET pops an entry and goes to it plus 2, S[SP] keeping its value; with SP = 0 it raises STACK_UNDERFLOW and changes nothing else. -/
def Obligations.ReturnPopsOrUnderflows : Prop :=
  decodeWord 0x00EE = some .ret ∧
  ∀ s : State,
    (∀ (h : 0 < s.sp.val), ∃ t, exec .ret s = .next t ∧ t.sp.val = s.sp.val - 1 ∧
      t.pc = s.stack[s.sp.val - 1]'(by omega) + 2 ∧ t.stack = s.stack ∧ CycleEnds s t ∧ Frame s t [] [.stack]) ∧
    (s.sp.val = 0 → ∃ t, exec .ret s = .next t ∧
      TookFault s t (some 0x00EE) { kind := .stackUnderflow, address := none, value := none })

/-- R122: CALL pushes its own address and jumps (SP as a count of entries is the spec's decision D29). -/
def Obligations.CallPushesItsOwnAddress : Prop :=
  ∀ (nnn : Addr) (s : State),
    decodeWord (0x2#4 ++ nnn) = some (.call nnn) ∧
    ∀ (h : s.sp.val < 16), ∃ t, exec (.call nnn) s = .next t ∧ t.stack[s.sp.val] = s.pc ∧ t.sp.val = s.sp.val + 1 ∧
      (∀ (j : Nat) (hj : j < 16), j ≠ s.sp.val → t.stack[j] = s.stack[j]) ∧
      t.pc.toNat = nnn.toNat ∧ CycleEnds s t ∧ Frame s t [] [.stack]

/-- R232: CALL with SP = 16 raises STACK_OVERFLOW, recording the pc and the word. -/
def Obligations.CallWithFullStackOverflows : Prop :=
  ∀ (nnn : Addr) (s : State), s.sp.val = 16 → ∃ t, exec (.call nnn) s = .next t ∧
    TookFault s t (some (0x2#4 ++ nnn)) { kind := .stackOverflow, address := none, value := none }

/-- CALL and then RET come back to the instruction after the CALL, with the stack pointer as before (95_test_vectors.md W2). -/
def Obligations.ReturnAfterCallComesBack : Prop :=
  ∀ (nnn : Addr) (s t : State), s.sp.val < 16 → exec (.call nnn) s = .next t →
    ∃ u, exec .ret t = .next u ∧ u.pc = s.pc + 2 ∧ u.sp = s.sp ∧ Frame s u [] [.stack]

/-- R123 and R124: skip when V[x] equals, or differs from, kk. -/
def Obligations.SkipsOnImmediate : Prop :=
  ∀ (x : Nibble) (kk : Byte) (s : State),
    decodeWord (0x3#4 ++ x ++ kk) = some (.seVK x kk) ∧ decodeWord (0x4#4 ++ x ++ kk) = some (.sneVK x kk) ∧
    (∃ t, exec (.seVK x kk) s = .next t ∧ t.pc = (if (s.getV x).toNat = kk.toNat then s.pc + 4 else s.pc + 2) ∧
      CycleEnds s t ∧ Frame s t [] []) ∧
    ∃ t, exec (.sneVK x kk) s = .next t ∧ t.pc = (if (s.getV x).toNat = kk.toNat then s.pc + 2 else s.pc + 4) ∧
      CycleEnds s t ∧ Frame s t [] []

/-- R125 and R126: skip when V[x] equals, or differs from, V[y], for every n. -/
def Obligations.SkipsOnRegisters : Prop :=
  ∀ (x y n : Nibble) (s : State),
    decodeWord (0x5#4 ++ x ++ y ++ n) = some (.seVV x y n) ∧ decodeWord (0x9#4 ++ x ++ y ++ n) = some (.sneVV x y n) ∧
    (∃ t, exec (.seVV x y n) s = .next t ∧
      t.pc = (if (s.getV x).toNat = (s.getV y).toNat then s.pc + 4 else s.pc + 2) ∧ CycleEnds s t ∧ Frame s t [] []) ∧
    ∃ t, exec (.sneVV x y n) s = .next t ∧
      t.pc = (if (s.getV x).toNat = (s.getV y).toNat then s.pc + 2 else s.pc + 4) ∧ CycleEnds s t ∧ Frame s t [] []

/-- R127: pc <- nnn + V0, not reduced to 12 bits (the spec's decision D14). -/
def Obligations.ComputedJumpAddsV0 : Prop :=
  ∀ (nnn : Addr) (s : State),
    decodeWord (0xB#4 ++ nnn) = some (.jpV0 nnn) ∧
    ∃ t, exec (.jpV0 nnn) s = .next t ∧ t.pc.toNat = nnn.toNat + (s.getV 0).toNat ∧ CycleEnds s t ∧ Frame s t [] []

/-- R128 and R129: skip on the current state of key V[x] mod 16, where V[x] <= 0xF or the policy is LOW_NIBBLE (the spec's decisions D17, D39). -/
def Obligations.KeySkips : Prop :=
  ∀ (x : Nibble) (s : State),
    decodeWord (0xE#4 ++ x ++ 0x9E#8) = some (.skp x) ∧ decodeWord (0xE#4 ++ x ++ 0xA1#8) = some (.sknp x) ∧
    ((s.getV x).toNat ≤ 0xF ∨ s.config.keyIndex = .lowNibble →
      (∃ t, exec (.skp x) s = .next t ∧
        t.pc = (if s.keys.getLsbD ((s.getV x).toNat % 16) = true then s.pc + 4 else s.pc + 2) ∧
        CycleEnds s t ∧ Frame s t [] []) ∧
      ∃ t, exec (.sknp x) s = .next t ∧
        t.pc = (if s.keys.getLsbD ((s.getV x).toNat % 16) = true then s.pc + 2 else s.pc + 4) ∧
        CycleEnds s t ∧ Frame s t [] [])

/-- R128, R129 and R192: with the policy FAULT, a key or digit number above 0xF raises OPERAND_RANGE with the value V[x] (the spec's decisions D16, D17). -/
def Obligations.NumbersAboveFifteenFault : Prop :=
  ∀ (x : Nibble) (s : State), 0xF < (s.getV x).toNat →
    (s.config.keyIndex = .fault →
      (∃ t, exec (.skp x) s = .next t ∧ TookFault s t (some (0xE#4 ++ x ++ 0x9E#8))
        { kind := .operandRange, address := none, value := some (s.getV x) }) ∧
      ∃ t, exec (.sknp x) s = .next t ∧ TookFault s t (some (0xE#4 ++ x ++ 0xA1#8))
        { kind := .operandRange, address := none, value := some (s.getV x) }) ∧
    (s.config.fontDigit = .fault →
      ∃ t, exec (.ldFV x) s = .next t ∧ TookFault s t (some (0xF#4 ++ x ++ 0x29#8))
        { kind := .operandRange, address := none, value := some (s.getV x) })

/-! ## The display (43_sprite_compositor.md) -/

/-- R172: every pixel 0, redraw set, VF unchanged. -/
def Obligations.ClearDisplay : Prop :=
  decodeWord 0x00E0 = some .cls ∧
  ∀ s : State, ∃ t, exec .cls s = .next t ∧ (∀ r c, t.grid.pixel r c = false) ∧ t.redraw = true ∧ t.pc = s.pc + 2 ∧
    CycleEnds s t ∧ Frame s t [] [.display]

/-- R173 with R176 and R177: each pixel is its old value xor the sprite's bit there; VF is 0x01 exactly when some set bit met a 1; redraw is set. Coordinates come from the old registers, x or y = 0xF too (the spec's decision D32). -/
def Obligations.DrawSprite : Prop :=
  ∀ (x y n : Nibble) (s : State),
    decodeWord (0xD#4 ++ x ++ y ++ n) = some (.drw x y n) ∧
    (n = 0 ∨ s.i.toNat + n.toNat ≤ 0x1000 →
      ∃ t rows, exec (.drw x y n) s = .next t ∧
        rows.length = n.toNat ∧ (∀ j, j < n.toNat → rows.getD j 0 = s.readByte (s.i.toNat + j)) ∧
        (∀ r c, spriteCovers (s.getV x) (s.getV y) rows r c → t.grid.pixel r c = !s.grid.pixel r c) ∧
        (∀ r c, ¬ spriteCovers (s.getV x) (s.getV y) rows r c → t.grid.pixel r c = s.grid.pixel r c) ∧
        (t.getV 0xF = 0x00 ∨ t.getV 0xF = 0x01) ∧
        (t.getV 0xF = 0x01 ↔ ∃ r c, s.grid.pixel r c = true ∧ spriteCovers (s.getV x) (s.getV y) rows r c) ∧
        t.redraw = true ∧ t.pc = s.pc + 2 ∧ CycleEnds s t ∧ Frame s t [0xF] [.display])

/-- R173 and R65: an access through I that ends above 0xFFF raises MEMORY_BOUNDS at max(I, 0x1000), the lowest address outside memory: Dxyn with n >= 1, Fx33, Fx55, Fx65 (the spec's decisions D21, D22). -/
def Obligations.AccessesBeyondMemoryFault : Prop :=
  ∀ (x y n : Nibble) (s : State),
    (0 < n.toNat → 0x1000 < s.i.toNat + n.toNat →
      ∃ t, exec (.drw x y n) s = .next t ∧
        TookFault s t (some (0xD#4 ++ x ++ y ++ n)) (boundsFault (if s.i.toNat < 0x1000 then 0x1000 else s.i))) ∧
    (0x1000 < s.i.toNat + 3 →
      ∃ t, exec (.ldBV x) s = .next t ∧
        TookFault s t (some (0xF#4 ++ x ++ 0x33#8)) (boundsFault (if s.i.toNat < 0x1000 then 0x1000 else s.i))) ∧
    (0x1000 < s.i.toNat + (x.toNat + 1) →
      (∃ t, exec (.ldMemV x) s = .next t ∧
        TookFault s t (some (0xF#4 ++ x ++ 0x55#8)) (boundsFault (if s.i.toNat < 0x1000 then 0x1000 else s.i))) ∧
      ∃ t, exec (.ldVMem x) s = .next t ∧
        TookFault s t (some (0xF#4 ++ x ++ 0x65#8)) (boundsFault (if s.i.toNat < 0x1000 then 0x1000 else s.i)))

/-- R170 drawn twice: the same rows (at most 15) at the same place restore the grid, and the second draw collides exactly when some set bit's cell was 0 before the first; from an all-zero grid that is: exactly when some row has a set bit. R178, which the spec derives from R170, gives the last reading for every grid; R170 does not (log 17). -/
def Obligations.DrawTwiceRestoresTheGrid : Prop :=
  ∀ (g : Grid) (x0 y0 : Byte) (rows : List Byte), rows.length ≤ 15 →
    (draw (draw g x0 y0 rows).1 x0 y0 rows).1 = g ∧
    ((draw (draw g x0 y0 rows).1 x0 y0 rows).2 = true ↔ ∃ r c, g.pixel r c = false ∧ spriteCovers x0 y0 rows r c) ∧
    (g = Grid.blank → ((draw (draw g x0 y0 rows).1 x0 y0 rows).2 = true ↔ ∃ row ∈ rows, row ≠ 0))

/-- R174: start coordinates that agree modulo 64 and modulo 32 draw identically, for any rows. -/
def Obligations.DrawWrapsItsStartCoordinates : Prop :=
  ∀ (g : Grid) (x0 y0 x1 y1 : Byte) (rows : List Byte),
    x0.toNat % 64 = x1.toNat % 64 → y0.toNat % 32 = y1.toNat % 32 → draw g x0 y0 rows = draw g x1 y1 rows

/-! ## I and memory (44_index_memory.md) -/

/-- R190: I <- nnn, no flag. -/
def Obligations.LoadIndex : Prop :=
  ∀ (nnn : Addr) (s : State),
    decodeWord (0xA#4 ++ nnn) = some (.ldI nnn) ∧
    ∃ t, exec (.ldI nnn) s = .next t ∧ t.i.toNat = nnn.toNat ∧ t.pc = s.pc + 2 ∧ CycleEnds s t ∧ Frame s t [] [.index]

/-- R191: I <- (I + V[x]) mod 65536, VF unchanged and no check (the spec's decisions D15, D21). -/
def Obligations.AddToIndexWrapsAndWritesNoFlag : Prop :=
  ∀ (x : Nibble) (s : State),
    decodeWord (0xF#4 ++ x ++ 0x1E#8) = some (.addIV x) ∧
    ∃ t, exec (.addIV x) s = .next t ∧ t.i.toNat = (s.i.toNat + (s.getV x).toNat) % 65536 ∧ t.pc = s.pc + 2 ∧
      CycleEnds s t ∧ Frame s t [] [.index]

/-- R192: I <- FONT_BASE + 5 * d for the digit d = V[x], or V[x] mod 16 under LOW_NIBBLE (the spec's decision D16), where FONT_BASE is one table P2 allows. -/
def Obligations.LoadGlyphAddress : Prop :=
  ∀ (x : Nibble) (s : State),
    decodeWord (0xF#4 ++ x ++ 0x29#8) = some (.ldFV x) ∧
    (s.config.wellFormed → (s.getV x).toNat ≤ 0xF ∨ s.config.fontDigit = .lowNibble →
      ∃ t, exec (.ldFV x) s = .next t ∧ t.i.toNat = s.config.fontBase + 5 * ((s.getV x).toNat % 16) ∧
        t.pc = s.pc + 2 ∧ CycleEnds s t ∧ Frame s t [] [.index])

/-- R193 and R194: Fx33 stores the decimal digits of V[x] at I, I+1, I+2; or raises MEMORY_BOUNDS, or RESERVED_WRITE, and stores nothing. -/
def Obligations.DecimalStore : Prop :=
  ∀ (x : Nibble) (s : State),
    decodeWord (0xF#4 ++ x ++ 0x33#8) = some (.ldBV x) ∧
    (s.i.toNat + 2 ≤ 0xFFF → 0x1FF < s.i.toNat ∨ s.config.reservedWrite = .perform →
      ∃ t, exec (.ldBV x) s = .next t ∧
        (t.readByte s.i.toNat).toNat = (s.getV x).toNat / 100 ∧
        (t.readByte (s.i.toNat + 1)).toNat = (s.getV x).toNat / 10 % 10 ∧
        (t.readByte (s.i.toNat + 2)).toNat = (s.getV x).toNat % 10 ∧
        SameMemoryOutside s t s.i.toNat 3 ∧ t.pc = s.pc + 2 ∧ CycleEnds s t ∧ Frame s t [] [.memory]) ∧
    (0xFFF < s.i.toNat + 2 →
      ∃ t, exec (.ldBV x) s = .next t ∧
        TookFault s t (some (0xF#4 ++ x ++ 0x33#8)) (boundsFault (if s.i.toNat < 0x1000 then 0x1000 else s.i))) ∧
    (s.i.toNat ≤ 0x1FF → s.config.reservedWrite = .fault →
      ∃ t, exec (.ldBV x) s = .next t ∧
        TookFault s t (some (0xF#4 ++ x ++ 0x33#8)) { kind := .reservedWrite, address := some s.i, value := none })

/-- R195: Fx55 stores V0..Vx at I..I+x and leaves I; RESERVED_WRITE stores nothing (the spec's decision D19). -/
def Obligations.BlockStore : Prop :=
  ∀ (x : Nibble) (s : State),
    decodeWord (0xF#4 ++ x ++ 0x55#8) = some (.ldMemV x) ∧
    (s.i.toNat + x.toNat ≤ 0xFFF → 0x1FF < s.i.toNat ∨ s.config.reservedWrite = .perform →
      ∃ t, exec (.ldMemV x) s = .next t ∧
        (∀ r : Nibble, r.toNat ≤ x.toNat → t.readByte (s.i.toNat + r.toNat) = s.getV r) ∧
        SameMemoryOutside s t s.i.toNat (x.toNat + 1) ∧ t.pc = s.pc + 2 ∧ CycleEnds s t ∧ Frame s t [] [.memory]) ∧
    (s.i.toNat ≤ 0x1FF → s.config.reservedWrite = .fault →
      ∃ t, exec (.ldMemV x) s = .next t ∧
        TookFault s t (some (0xF#4 ++ x ++ 0x55#8)) { kind := .reservedWrite, address := some s.i, value := none })

/-- R196: Fx65 loads V0..Vx from I..I+x, leaving the other registers and I; or raises MEMORY_BOUNDS and writes no register. -/
def Obligations.BlockLoad : Prop :=
  ∀ (x : Nibble) (s : State),
    decodeWord (0xF#4 ++ x ++ 0x65#8) = some (.ldVMem x) ∧
    (s.i.toNat + x.toNat ≤ 0xFFF →
      ∃ t, exec (.ldVMem x) s = .next t ∧
        (∀ r : Nibble, r.toNat ≤ x.toNat → t.getV r = s.readByte (s.i.toNat + r.toNat)) ∧
        (∀ r : Nibble, x.toNat < r.toNat → t.getV r = s.getV r) ∧
        t.pc = s.pc + 2 ∧ CycleEnds s t ∧
        Frame s t ((List.range (x.toNat + 1)).map (BitVec.ofNat 4)) []) ∧
    (0xFFF < s.i.toNat + x.toNat →
      ∃ t, exec (.ldVMem x) s = .next t ∧
        TookFault s t (some (0xF#4 ++ x ++ 0x65#8)) (boundsFault (if s.i.toNat < 0x1000 then 0x1000 else s.i)))

/-- Storing V0..Vx and loading them back from the same address, into any state with that memory, I and parameters, gives the original values and no other (95_test_vectors.md W7, 44_index_memory.md R197). -/
def Obligations.BlockStoreThenLoadRoundTrip : Prop :=
  ∀ (x : Nibble) (s t u w : State), exec (.ldMemV x) s = .next t → t.status = .ready →
    u.mem = t.mem → u.i = s.i → u.config = s.config → exec (.ldVMem x) u = .next w →
    w.status = .ready ∧ w.i = s.i ∧
    ∀ r : Nibble, w.getV r = if r.toNat ≤ x.toNat then s.getV r else u.getV r

/-- What Fx55 stores at I is what a fetch at I reads next, with no delay (20_memory.md R73, derived there; 30_encoding.md R80). -/
def Obligations.StoredBytesAreFetched : Prop :=
  ∀ (x : Nibble) (s t : State), 1 ≤ x.toNat → exec (.ldMemV x) s = .next t → t.status = .ready →
    { t with pc := s.i }.fetchWord = .ok (s.getV 0 ++ s.getV 1)

/-! ## Timers, key wait, random byte (45_timers_keys_random.md) -/

/-- R211, R212 and R213: V[x] <- DT; DT <- V[x]; ST <- V[x], and tone is 1 exactly when V[x] is not 0. -/
def Obligations.TimerInstructions : Prop :=
  ∀ (x : Nibble) (s : State),
    decodeWord (0xF#4 ++ x ++ 0x07#8) = some (.ldVDT x) ∧ decodeWord (0xF#4 ++ x ++ 0x15#8) = some (.ldDTV x) ∧
    decodeWord (0xF#4 ++ x ++ 0x18#8) = some (.ldSTV x) ∧
    (∃ t, exec (.ldVDT x) s = .next t ∧ t.getV x = s.dt ∧ t.pc = s.pc + 2 ∧ CycleEnds s t ∧ Frame s t [x] []) ∧
    (∃ t, exec (.ldDTV x) s = .next t ∧ t.dt = s.getV x ∧ t.pc = s.pc + 2 ∧ CycleEnds s t ∧
      Frame s t [] [.delayTimer]) ∧
    ∃ t, exec (.ldSTV x) s = .next t ∧ t.st = s.getV x ∧ (t.outputs.tone = true ↔ s.getV x ≠ 0) ∧ t.pc = s.pc + 2 ∧
      CycleEnds s t ∧ Frame s t [] [.soundTimer]

/-- R214 and R215: Fx0A stores the lowest key that is pressed now and was not at the end of the previous completed cycle; with no such key it waits, changing only kprev and status (the spec's decision D18). -/
def Obligations.KeyWait : Prop :=
  ∀ (x : Nibble) (s : State),
    decodeWord (0xF#4 ++ x ++ 0x0A#8) = some (.ldVKey x) ∧
    (∀ k : Nat, k < 16 → s.keys.getLsbD k = true → s.kprev.getLsbD k = false →
      (∀ j : Nat, j < k → s.keys.getLsbD j = true → s.kprev.getLsbD j = true) →
      ∃ t, exec (.ldVKey x) s = .next t ∧ (t.getV x).toNat = k ∧ t.pc = s.pc + 2 ∧ CycleEnds s t ∧ Frame s t [x] []) ∧
    ((∀ k : Nat, k < 16 → s.keys.getLsbD k = true → s.kprev.getLsbD k = true) →
      exec (.ldVKey x) s = .next { s with kprev := s.keys, status := .waitKey })

/-- R216 and R217: V[x] <- rand & kk, for the byte the host drives, whatever it is, and else for a free value (log 3). -/
def Obligations.RandomByteIsMasked : Prop :=
  ∀ (x : Nibble) (kk : Byte) (s : State),
    decodeWord (0xC#4 ++ x ++ kk) = some (.rnd x kk) ∧
    ∃ t rand, exec (.rnd x kk) s = .next t ∧ t.getV x = rand &&& kk ∧
      (∀ b rest, s.randIn = b :: rest → rand = b ∧ t.randIn = rest ∧ t.draws = s.draws) ∧
      (s.randIn = [] → rand = Config.freeRand s.draws ∧ t.randIn = [] ∧ t.draws = s.draws + 1) ∧
      t.pc = s.pc + 2 ∧ CycleEnds s t ∧ Frame s t [x] [.rand]

/-! ## The engine's cycle (40_execution_engine.md, 60_exceptions.md) -/

/-- A step runs the decoded instruction. From every state the step is the engine's cycle, at the same state when no host event is listed, and at the state without it when the listed event is STEP; and when the engine is not FAULTED and the bytes at pc and pc + 1 decode to i, it is exec of i there. The list of host events is the model's choice (log 2). -/
def Obligations.StepRunsTheDecodedInstruction : Prop :=
  ∀ s : State,
    (s.inputs = [] → step s = cycle s) ∧
    (∀ rest, s.inputs = .step :: rest → step s = cycle { s with inputs := rest }) ∧
    ∀ i : Instr, s.status ≠ .faulted → s.pc.toNat ≤ 0xFFE →
      decodeWord (s.readByte s.pc.toNat ++ s.readByte (s.pc.toNat + 1)) = some i →
      (s.inputs = [] → step s = exec i s) ∧
      ∀ rest, s.inputs = .step :: rest → step s = exec i { s with inputs := rest }

/-- Placing a word makes the next step run it: from every state, withFetchWord and then a step is exec of the decoded instruction there (log 12). -/
def Obligations.StepRunsThePlacedWord : Prop :=
  ∀ (s : State) (w : Nat) (i : Instr), w < 65536 → decodeTableWord 16 w = some i →
    step (s.withFetchWord 16 w) = exec i (s.withFetchWord 16 w)

/-- R101: the fetch forms the word mem[pc] ++ mem[pc + 1] at any pc <= 0xFFE, odd or reserved too; above, STEP raises MEMORY_BOUNDS at max(pc, 0x1000) with no word. -/
def Obligations.FetchReadsTwoBytesOrFaults : Prop :=
  ∀ s : State,
    (s.pc.toNat ≤ 0xFFE → ∃ w, s.fetchWord = .ok w ∧
      w.toNat = (s.readByte s.pc.toNat).toNat * 256 + (s.readByte (s.pc.toNat + 1)).toNat) ∧
    (0xFFE < s.pc.toNat → s.status ≠ .faulted → ∃ t, cycle s = .next t ∧
      TookFault s t none (boundsFault (if s.pc.toNat < 0x1000 then 0x1000 else s.pc)))

/-- R102 and R231: a fetched word that is INVALID raises DECODE_FAILURE with the pc and the word, and changes no other state. -/
def Obligations.InvalidWordFaults : Prop :=
  ∀ (s : State) (w : Word), s.status ≠ .faulted → s.pc.toNat ≤ 0xFFE →
    w.toNat = (s.readByte s.pc.toNat).toNat * 256 + (s.readByte (s.pc.toNat + 1)).toNat → decodeWord w = none →
    ∃ t, cycle s = .next t ∧ TookFault s t (some w) { kind := .decodeFailure, address := none, value := none }

/-- A faulting cycle writes only status and the fault record, whose pc is that of the faulting instruction (60_exceptions.md R238, the spec's decision D22); and a cycle of a FAULTED engine changes nothing (decision D23). -/
def Obligations.FaultingCycleChangesOnlyStatusAndRecord : Prop :=
  ∀ s t : State, cycle s = .next t → t.status = .faulted →
    (s.status = .faulted → t = s) ∧
    (s.status ≠ .faulted → ∃ w f, TookFault s t w f)

/-- Every completed cycle samples the keypad, kprev <- keys, and leaves keys, the parameters and the fault record as they were (40_execution_engine.md R106, decision D18; 10_state.md R30, R35). -/
def Obligations.CompletedCycleSamplesTheKeypad : Prop :=
  ∀ s t : State, cycle s = .next t → t.status ≠ .faulted →
    t.kprev = s.keys ∧ t.keys = s.keys ∧ t.config = s.config ∧ t.fault = s.fault

/-- R104: the pc after a handler is one of the listed forms and no other, for a pc that has been fetched from and stack entries that a CALL pushed (10_state.md R26): WAIT and a fault leave it; else it is a jump's or call's target, nnn + V0, the popped entry plus 2, p + 4 for a skip whose condition is true, and p + 2 for every other instruction and skip. -/
def Obligations.ProgramCounterForms : Prop :=
  ∀ (i : Instr) (s t : State), pcBounded s → s.pc.toNat ≤ 0xFFE → exec i s = .next t →
    (t.status ≠ .ready → t.pc = s.pc) ∧
    (t.status = .waitKey → ∃ x, i = .ldVKey x) ∧
    (t.status = .ready →
      match i with
      | .jp nnn | .call nnn => t.pc.toNat = nnn.toNat
      | .jpV0 nnn => t.pc.toNat = nnn.toNat + (s.getV 0).toNat
      | .ret => ∃ (j : Nat) (h : j < 16), s.sp.val = j + 1 ∧ t.pc.toNat = (s.stack[j]).toNat + 2
      | _ => (skipTaken i s → t.pc.toNat = s.pc.toNat + 4) ∧ (¬ skipTaken i s → t.pc.toNat = s.pc.toNat + 2))

/-- 10_state.md table S1 as a whole-machine rule: which instructions can change a general register, memory, I, the stack, a timer, the display or the rand input; none changes keys, the parameters or the host's coming events (the spec derives the table from the instruction rules). -/
def Obligations.OnlyTheListedInstructionsWrite : Prop :=
  ∀ (i : Instr) (s t : State), exec i s = .next t →
    (∀ r, t.getV r ≠ s.getV r → mayWriteReg s.config i r) ∧
    ((∃ a, t.readByte a ≠ s.readByte a) → ∃ x, i = .ldBV x ∨ i = .ldMemV x) ∧
    (t.i ≠ s.i → (∃ nnn, i = .ldI nnn) ∨ ∃ x, i = .addIV x ∨ i = .ldFV x) ∧
    (t.sp ≠ s.sp → i = .ret ∨ ∃ nnn, i = .call nnn) ∧
    (t.stack ≠ s.stack → ∃ nnn, i = .call nnn) ∧
    (t.dt ≠ s.dt → ∃ x, i = .ldDTV x) ∧
    (t.st ≠ s.st → ∃ x, i = .ldSTV x) ∧
    (t.grid ≠ s.grid ∨ t.redraw ≠ s.redraw → i = .cls ∨ ∃ x y n, i = .drw x y n) ∧
    (t.randIn ≠ s.randIn ∨ t.draws ≠ s.draws → ∃ x kk, i = .rnd x kk) ∧
    t.keys = s.keys ∧ t.config = s.config ∧ t.inputs = s.inputs

/-- With RESERVED_WRITE_POLICY = FAULT no instruction changes a byte of 0x000-0x1FF, so none changes the font (20_memory.md R63, decision D19). -/
def Obligations.ReservedRegionIsNeverWritten : Prop :=
  ∀ (i : Instr) (s t : State) (a : Nat), s.config.reservedWrite = .fault → exec i s = .next t → a ≤ 0x1FF →
    t.readByte a = s.readByte a

/-! ## Host events and reset -/

/-- TICK, SET_KEYS and FRAME_ACK change exactly what 10_state.md table S3 names, in every status (decisions D27, D28, D41); each is one step when it is the next listed event (log 2). -/
def Obligations.HostEventsChangeOnlyTheirState : Prop :=
  ∀ (s : State) (rest : List HostEvent) (k : Word),
    (s.inputs = .tick :: rest → ∃ t, step s = .next t ∧
      t.dt.toNat = s.dt.toNat - 1 ∧ t.st.toNat = s.st.toNat - 1 ∧ t = { s with inputs := rest, dt := t.dt, st := t.st }) ∧
    (s.inputs = .setKeys k :: rest → step s = .next { s with inputs := rest, keys := k }) ∧
    (s.inputs = .frameAck :: rest → step s = .next { s with inputs := rest, redraw := false })

/-- 10_state.md table S2 at State.reset: every value the spec gives (decisions D5, D6, D7), memory as one function of the address: the sixteen glyphs of 20_memory.md table M1, written out, and 0x00 from 0x050 to 0xFFF. -/
def Obligations.ResetStateHoldsTheTableValues : Prop :=
  (∀ r, State.reset.getV r = 0) ∧ State.reset.i = 0 ∧ State.reset.pc = 0x200 ∧ State.reset.sp.val = 0 ∧
  State.reset.dt = 0 ∧ State.reset.st = 0 ∧ State.reset.keys = 0 ∧ State.reset.kprev = 0 ∧
  (∀ r c, State.reset.grid.pixel r c = false) ∧ State.reset.redraw = false ∧ State.reset.status = .ready ∧
  State.reset.fault = none ∧
  State.reset.readBytes 0x00 5 = [0xF0, 0x90, 0x90, 0x90, 0xF0] ∧
  State.reset.readBytes 0x05 5 = [0x20, 0x60, 0x20, 0x20, 0x70] ∧
  State.reset.readBytes 0x0A 5 = [0xF0, 0x10, 0xF0, 0x80, 0xF0] ∧
  State.reset.readBytes 0x0F 5 = [0xF0, 0x10, 0xF0, 0x10, 0xF0] ∧
  State.reset.readBytes 0x14 5 = [0x90, 0x90, 0xF0, 0x10, 0x10] ∧
  State.reset.readBytes 0x19 5 = [0xF0, 0x80, 0xF0, 0x10, 0xF0] ∧
  State.reset.readBytes 0x1E 5 = [0xF0, 0x80, 0xF0, 0x90, 0xF0] ∧
  State.reset.readBytes 0x23 5 = [0xF0, 0x10, 0x20, 0x40, 0x40] ∧
  State.reset.readBytes 0x28 5 = [0xF0, 0x90, 0xF0, 0x90, 0xF0] ∧
  State.reset.readBytes 0x2D 5 = [0xF0, 0x90, 0xF0, 0x10, 0xF0] ∧
  State.reset.readBytes 0x32 5 = [0xF0, 0x90, 0xF0, 0x90, 0x90] ∧
  State.reset.readBytes 0x37 5 = [0xE0, 0x90, 0xE0, 0x90, 0xE0] ∧
  State.reset.readBytes 0x3C 5 = [0xF0, 0x80, 0x80, 0x80, 0xF0] ∧
  State.reset.readBytes 0x41 5 = [0xE0, 0x90, 0x90, 0x90, 0xE0] ∧
  State.reset.readBytes 0x46 5 = [0xF0, 0x80, 0xF0, 0x80, 0xF0] ∧
  State.reset.readBytes 0x4B 5 = [0xF0, 0x80, 0xF0, 0x80, 0x80] ∧
  ∀ a, 0x050 ≤ a → a < 0x1000 → State.reset.readByte a = 0

/-- RESET(image) with a valid image, when it is the next listed event, is a step, in every status and whatever RESET_FILL: the font at FONT_BASE, the image at 0x200, pc 0x200, READY, no fault record; with RESET_FILL = ZERO every register, SP, timer, key, pixel and other byte is 0. (70_reset_and_hazards.md R260, decisions D5 to D9. The list of events is log 2; that the parameters and the host's coming events stay is log 13; what ARBITRARY draws is log 7.) -/
def Obligations.ResetLoadsFontAndImage : Prop :=
  ∀ (s : State) (image : List Byte) (rest : List HostEvent), s.inputs = .reset image :: rest →
    s.config.wellFormed → image.length ≤ 3584 →
    step s = resetEvent image { s with inputs := rest } ∧
    ∃ t, step s = .next t ∧ t.pc = 0x200 ∧ t.status = .ready ∧ t.fault = none ∧
      t.config = s.config ∧ t.inputs = rest ∧ t.randIn = s.randIn ∧
      (∀ k, k < 80 → t.readByte (s.config.fontBase + k) = fontBytes.getD k 0) ∧
      (∀ k, k < image.length → t.readByte (0x200 + k) = image.getD k 0) ∧
      (s.config.resetFill = .zero →
        (∀ r, t.getV r = 0) ∧ t.i = 0 ∧ t.sp.val = 0 ∧ t.dt = 0 ∧ t.st = 0 ∧ t.keys = 0 ∧ t.kprev = 0 ∧
        (∀ r c, t.grid.pixel r c = false) ∧ t.redraw = false ∧
        ∀ a, a < 0x1000 → (a < s.config.fontBase ∨ s.config.fontBase + 80 ≤ a) →
          (a < 0x200 ∨ 0x200 + image.length ≤ a) → t.readByte a = 0)

/-- After RESET with an image of two bytes or more, the fetch reads the image's first word; and the first step from State.reset, where no image is loaded, fetches 0x0000 at 0x200 and raises DECODE_FAILURE (70_reset_and_hazards.md R261, R262, decision D6). -/
def Obligations.FirstFetchAfterResetReadsTheImage : Prop :=
  (∀ (s t : State) (hi lo : Byte) (rest : List Byte), resetEvent (hi :: lo :: rest) s = .next t →
    t.fetchWord = .ok (hi ++ lo)) ∧
  ∃ t, step State.reset = .next t ∧
    TookFault State.reset t (some 0x0000) { kind := .decodeFailure, address := none, value := none }

/-- The only step without a next state is RESET with an image over 3584 bytes, which is refused (70_reset_and_hazards.md R261, derived there); no step answers a fault outcome (log 5). -/
def Obligations.OnlyALongImageIsRefused : Prop :=
  ∀ s : State,
    (∃ t, step s = .next t) ∨
    ∃ image rest, s.inputs = .reset image :: rest ∧ 3584 < image.length ∧ step s = .refused (.imageTooLong image.length)

/-! ## Invariants -/

/-- Every step keeps memory in its canonical form, for a FONT_BASE table P2 allows. -/
def Obligations.StepKeepsMemoryCanonical : Prop :=
  ∀ s t : State, s.config.wellFormed → memoryCanonical s → step s = .next t → memoryCanonical t

/-- Every step keeps pc at most 0x10FE and every stack entry in use at most 0xFFE, so no pc sum wraps. 10_state.md R26 derives this from the instruction rules, so for entries that a CALL pushed. For RESET with RESET_FILL = ARBITRARY the bound on the entries that the drawn SP counts as in use is the model's choice (log 7). -/
def Obligations.StepKeepsProgramCounterBounded : Prop :=
  ∀ s t : State, pcBounded s → step s = .next t → pcBounded t

/-- Every step keeps the fault record empty except in FAULTED, and only RESET leaves FAULTED (10_state.md R35, 60_exceptions.md R240, decisions D23, D24). -/
def Obligations.StepKeepsFaultRecordAndFaulted : Prop :=
  ∀ s t : State, step s = .next t →
    (faultRecordAgrees s → faultRecordAgrees t) ∧
    (s.status = .faulted → t.status ≠ .faulted → ∃ image rest, s.inputs = .reset image :: rest) ∧
    t.config = s.config

/-- The invariants hold at State.reset. -/
def Obligations.ResetMeetsTheInvariants : Prop :=
  State.reset.config.wellFormed ∧ memoryCanonical State.reset ∧ pcBounded State.reset ∧ faultRecordAgrees State.reset

/-! ## What an instruction cannot learn -/

/-- Two states that differ only in stack entries not in use take steps to two such states, so the entries the spec leaves unspecified at reset, and the model's value for them (log 6), are unobservable (10_state.md R27, decision D29). -/
def Obligations.UnusedStackEntriesAreUnobservable : Prop :=
  ∀ s t s' : State, SameButUnusedStack s t → step s = .next s' →
    ∃ t', step t = .next t' ∧ SameButUnusedStack s' t'

/-- The rand input reaches nothing but Cxkk, and kprev nothing but Fx0A (10_state.md R41, R31): any other instruction does the same whatever they hold. -/
def Obligations.RandAndKprevReachOneInstructionEach : Prop :=
  ∀ (i : Instr) (s t : State) (r : List Byte) (d : Nat) (k : Word), exec i s = .next t →
    ((∀ x kk, i ≠ .rnd x kk) → exec i { s with randIn := r, draws := d } = .next { t with randIn := r, draws := d }) ∧
    ((∀ x, i ≠ .ldVKey x) →
      exec i { s with kprev := k } = .next (if t.status = .faulted then { t with kprev := k } else t))
end

