-- ==== Sys2Proof/Laws/Decode.lean ====
section
/-! SUPPORT. The fields of a word put together from fields, and a word as its fields (30_encoding.md R81). -/

namespace Sys2Proof

/-! ## Format XKK and XS -/

theorem opOf_xkk (o x : Nibble) (kk : Byte) : opOf (o ++ x ++ kk) = o := by
  apply BitVec.eq_of_getLsbD_eq
  intro i hi
  simp only [opOf, BitVec.getLsbD_extractLsb', BitVec.getLsbD_append]
  interval_cases i <;> simp

theorem xOf_xkk (o x : Nibble) (kk : Byte) : xOf (o ++ x ++ kk) = x := by
  apply BitVec.eq_of_getLsbD_eq
  intro i hi
  simp only [xOf, BitVec.getLsbD_extractLsb', BitVec.getLsbD_append]
  interval_cases i <;> simp

theorem kkOf_xkk (o x : Nibble) (kk : Byte) : kkOf (o ++ x ++ kk) = kk := by
  apply BitVec.eq_of_getLsbD_eq
  intro i hi
  simp only [kkOf, BitVec.getLsbD_extractLsb', BitVec.getLsbD_append]
  interval_cases i <;> simp

/-! ## Format NNN -/

theorem opOf_nnn (o : Nibble) (nnn : Addr) : opOf (o ++ nnn) = o := by
  apply BitVec.eq_of_getLsbD_eq
  intro i hi
  simp only [opOf, BitVec.getLsbD_extractLsb', BitVec.getLsbD_append]
  interval_cases i <;> simp

theorem nnnOf_nnn (o : Nibble) (nnn : Addr) : nnnOf (o ++ nnn) = nnn := by
  apply BitVec.eq_of_getLsbD_eq
  intro i hi
  simp only [nnnOf, BitVec.getLsbD_extractLsb', BitVec.getLsbD_append]
  interval_cases i <;> simp

/-! ## Format XYN and XYS -/

theorem opOf_xyn (o x y n : Nibble) : opOf (o ++ x ++ y ++ n) = o := by
  apply BitVec.eq_of_getLsbD_eq
  intro i hi
  simp only [opOf, BitVec.getLsbD_extractLsb', BitVec.getLsbD_append]
  interval_cases i <;> simp

theorem xOf_xyn (o x y n : Nibble) : xOf (o ++ x ++ y ++ n) = x := by
  apply BitVec.eq_of_getLsbD_eq
  intro i hi
  simp only [xOf, BitVec.getLsbD_extractLsb', BitVec.getLsbD_append]
  interval_cases i <;> simp

theorem yOf_xyn (o x y n : Nibble) : yOf (o ++ x ++ y ++ n) = y := by
  apply BitVec.eq_of_getLsbD_eq
  intro i hi
  simp only [yOf, BitVec.getLsbD_extractLsb', BitVec.getLsbD_append]
  interval_cases i <;> simp

theorem nOf_xyn (o x y n : Nibble) : nOf (o ++ x ++ y ++ n) = n := by
  apply BitVec.eq_of_getLsbD_eq
  intro i hi
  simp only [nOf, BitVec.getLsbD_extractLsb', BitVec.getLsbD_append]
  interval_cases i <;> simp

/-! ## A word is its fields -/

theorem word_eq_xkk (w : Word) : opOf w ++ xOf w ++ kkOf w = w := by
  apply BitVec.eq_of_getLsbD_eq
  intro i hi
  simp only [opOf, xOf, kkOf, BitVec.getLsbD_extractLsb', BitVec.getLsbD_append]
  interval_cases i <;> simp

theorem word_eq_nnn (w : Word) : opOf w ++ nnnOf w = w := by
  apply BitVec.eq_of_getLsbD_eq
  intro i hi
  simp only [opOf, nnnOf, BitVec.getLsbD_extractLsb', BitVec.getLsbD_append]
  interval_cases i <;> simp

theorem word_eq_xyn (w : Word) : opOf w ++ xOf w ++ yOf w ++ nOf w = w := by
  apply BitVec.eq_of_getLsbD_eq
  intro i hi
  simp only [opOf, xOf, yOf, nOf, BitVec.getLsbD_extractLsb', BitVec.getLsbD_append]
  interval_cases i <;> simp

/-! ## Bytes of a word -/

theorem wordOfBytes_hi_lo (w : Word) : wordOfBytes (hiByte w) (loByte w) = w := by
  apply BitVec.eq_of_getLsbD_eq
  intro i hi
  simp only [wordOfBytes, hiByte, loByte, BitVec.getLsbD_extractLsb', BitVec.getLsbD_append]
  interval_cases i <;> simp

theorem hiByte_wordOfBytes (hi lo : Byte) : hiByte (wordOfBytes hi lo) = hi := by
  apply BitVec.eq_of_getLsbD_eq
  intro i _
  simp only [wordOfBytes, hiByte, BitVec.getLsbD_extractLsb', BitVec.getLsbD_append]
  interval_cases i <;> simp

theorem loByte_wordOfBytes (hi lo : Byte) : loByte (wordOfBytes hi lo) = lo := by
  apply BitVec.eq_of_getLsbD_eq
  intro i _
  simp only [wordOfBytes, loByte, BitVec.getLsbD_extractLsb', BitVec.getLsbD_append]
  interval_cases i <;> simp

end Sys2Proof
end

