-- ==== Sys2Proof/Laws/Memory.lean ====
section
/-! SUPPORT. The laws of memory: read after write, and the canonical form. -/

namespace Sys2Proof.Machine

/-! ## What is listed after an operation -/

theorem memLookup_memInsert (m : Memory) (a k : Nat) (b : Byte) :
    memLookup (memInsert m a b) k = if k = a then some b else memLookup m k := by
  induction m with
  | nil => simp [memInsert, memLookup, eq_comm]
  | cons c rest ih =>
    simp only [memInsert]
    split
    · simp [memLookup, eq_comm]
    · split
      · subst_vars
        by_cases h : k = c.1
        · simp [memLookup, h]
        · simp [memLookup, h, Ne.symm h]
      · simp only [memLookup, ih]
        by_cases h : k = a
        · subst h
          rw [if_pos rfl, if_neg (by omega), if_pos rfl]
        · simp [h]

theorem memLookup_memErase (m : Memory) (a k : Nat) :
    memLookup (memErase m a) k = if k = a then none else memLookup m k := by
  induction m with
  | nil => simp [memErase, memLookup]
  | cons c rest ih =>
    simp only [memErase]
    by_cases h : c.1 = a
    · rw [if_pos h, ih]
      by_cases hk : k = a
      · simp [hk]
      · simp [memLookup, hk, show ¬ c.1 = k by omega]
    · rw [if_neg h]
      simp only [memLookup, ih]
      by_cases hk : k = a
      · subst hk
        simp [h]
      · simp [hk]

/-! ## Read after write -/

theorem memByte_memPut (base : Nat) (m : Memory) (a k : Nat) (b : Byte) :
    memByte base (memPut base m a b) k = if k = a then b else memByte base m k := by
  unfold memByte memPut
  split
  · rename_i h
    rw [memLookup_memErase]
    by_cases hk : k = a <;> simp [hk, h]
  · rw [memLookup_memInsert]
    by_cases hk : k = a <;> simp [hk]

/-- A byte of a range just written reads as the byte written there; every other byte reads as before. -/
theorem memByte_memPutBytes (base : Nat) (m : Memory) (a k : Nat) (bytes : List Byte) :
    memByte base (memPutBytes base m a bytes) k =
      if a ≤ k ∧ k < a + bytes.length then bytes.getD (k - a) 0 else memByte base m k := by
  induction bytes generalizing a with
  | nil => simp [memPutBytes, show ¬ (a ≤ k ∧ k < a) by omega]
  | cons b rest ih =>
    rw [memPutBytes, memByte_memPut, ih]
    by_cases hk : k = a
    · simp [hk]
    · by_cases hin : a + 1 ≤ k ∧ k < a + 1 + rest.length
      · have : k - a = (k - (a + 1)) + 1 := by omega
        rw [if_neg hk, if_pos hin, if_pos (by simp only [List.length_cons]; omega), this, List.getD_cons_succ]
      · rw [if_neg hk, if_neg hin, if_neg (by simp only [List.length_cons]; omega)]

theorem memByte_memPutBytes_outside (base : Nat) (m : Memory) (a k : Nat) (bytes : List Byte)
    (h : k < a ∨ a + bytes.length ≤ k) : memByte base (memPutBytes base m a bytes) k = memByte base m k := by
  rw [memByte_memPutBytes, if_neg (by omega)]

/-! ## The canonical form -/

theorem mem_memErase {m : Memory} {a : Nat} {c : Host.Cell} (h : c ∈ memErase m a) : c ∈ m ∧ c.1 ≠ a := by
  induction m with
  | nil => simp [memErase] at h
  | cons d rest ih =>
    simp only [memErase] at h
    split at h
    · exact ⟨List.mem_cons_of_mem _ (ih h).1, (ih h).2⟩
    · rcases List.mem_cons.mp h with rfl | h'
      · exact ⟨List.mem_cons_self, by assumption⟩
      · exact ⟨List.mem_cons_of_mem _ (ih h').1, (ih h').2⟩

theorem mem_memInsert {m : Memory} {a : Nat} {b : Byte} {c : Host.Cell} (h : c ∈ memInsert m a b) :
    c = (a, b) ∨ c ∈ m := by
  induction m with
  | nil => simpa [memInsert] using h
  | cons d rest ih =>
    simp only [memInsert] at h
    split at h
    · simpa using h
    · split at h
      · rcases List.mem_cons.mp h with rfl | h'
        · exact .inl rfl
        · exact .inr (List.mem_cons_of_mem _ h')
      · rcases List.mem_cons.mp h with rfl | h'
        · exact .inr List.mem_cons_self
        · rcases ih h' with h2 | h2
          · exact .inl h2
          · exact .inr (List.mem_cons_of_mem _ h2)

theorem memErase_pairwise {m : Memory} (a : Nat) (h : m.Pairwise (fun c d => c.1 < d.1)) :
    (memErase m a).Pairwise (fun c d => c.1 < d.1) := by
  induction m with
  | nil => simp [memErase]
  | cons c rest ih =>
    obtain ⟨hc, hr⟩ := List.pairwise_cons.mp h
    simp only [memErase]
    split
    · exact ih hr
    · exact List.pairwise_cons.mpr ⟨fun d hd => hc d (mem_memErase hd).1, ih hr⟩

theorem memInsert_pairwise {m : Memory} (a : Nat) (b : Byte) (h : m.Pairwise (fun c d => c.1 < d.1)) :
    (memInsert m a b).Pairwise (fun c d => c.1 < d.1) := by
  induction m with
  | nil => simp [memInsert]
  | cons c rest ih =>
    obtain ⟨hc, hr⟩ := List.pairwise_cons.mp h
    simp only [memInsert]
    split
    · rename_i hlt
      refine List.pairwise_cons.mpr ⟨fun d hd => ?_, h⟩
      rcases List.mem_cons.mp hd with rfl | hd'
      · exact hlt
      · exact Nat.lt_trans hlt (hc d hd')
    · split
      · rename_i heq
        subst heq
        exact List.pairwise_cons.mpr ⟨hc, hr⟩
      · refine List.pairwise_cons.mpr ⟨fun d hd => ?_, ih hr⟩
        rcases mem_memInsert hd with rfl | hd'
        · show c.1 < a
          omega
        · exact hc d hd'

theorem memPut_wf {base : Nat} {m : Memory} {a : Nat} (b : Byte) (h : Memory.wf base m) (ha : a < memSize) :
    Memory.wf base (memPut base m a b) := by
  unfold memPut
  split
  · exact ⟨memErase_pairwise a h.1, fun c hc => h.2 c (mem_memErase hc).1⟩
  · refine ⟨memInsert_pairwise a b h.1, fun c hc => ?_⟩
    rcases mem_memInsert hc with rfl | hc'
    · exact ⟨ha, by assumption⟩
    · exact h.2 c hc'

/-- Writing a range inside memory keeps the canonical form. -/
theorem memPutBytes_wf {base : Nat} {m : Memory} {a : Nat} (bytes : List Byte) (h : Memory.wf base m)
    (ha : a + bytes.length ≤ memSize) : Memory.wf base (memPutBytes base m a bytes) := by
  induction bytes generalizing a with
  | nil => exact h
  | cons b rest ih =>
    simp only [List.length_cons] at ha
    exact memPut_wf b (ih (by omega)) (by omega)

theorem nil_wf (base : Nat) : Memory.wf base [] := ⟨List.Pairwise.nil, by simp⟩

end Sys2Proof.Machine
end

