-- ==== Sys2Proof/Laws/State.lean ====
section
/-! SUPPORT. One lemma per field per update of State, each true by rfl, so that no proof unfolds an update. -/

namespace Sys2Proof.Machine

/-! ## `State.setV` -/

@[simp] theorem State.setV_mem (s : State) (x : Nibble) (b : Byte) : (s.setV x b).mem = s.mem := rfl
@[simp] theorem State.setV_v (s : State) (x : Nibble) (b : Byte) : (s.setV x b).v = s.v.set x.toNat b x.isLt := rfl
@[simp] theorem State.setV_i (s : State) (x : Nibble) (b : Byte) : (s.setV x b).i = s.i := rfl
@[simp] theorem State.setV_pc (s : State) (x : Nibble) (b : Byte) : (s.setV x b).pc = s.pc := rfl
@[simp] theorem State.setV_sp (s : State) (x : Nibble) (b : Byte) : (s.setV x b).sp = s.sp := rfl
@[simp] theorem State.setV_stack (s : State) (x : Nibble) (b : Byte) : (s.setV x b).stack = s.stack := rfl
@[simp] theorem State.setV_dt (s : State) (x : Nibble) (b : Byte) : (s.setV x b).dt = s.dt := rfl
@[simp] theorem State.setV_st (s : State) (x : Nibble) (b : Byte) : (s.setV x b).st = s.st := rfl
@[simp] theorem State.setV_keys (s : State) (x : Nibble) (b : Byte) : (s.setV x b).keys = s.keys := rfl
@[simp] theorem State.setV_kprev (s : State) (x : Nibble) (b : Byte) : (s.setV x b).kprev = s.kprev := rfl
@[simp] theorem State.setV_grid (s : State) (x : Nibble) (b : Byte) : (s.setV x b).grid = s.grid := rfl
@[simp] theorem State.setV_redraw (s : State) (x : Nibble) (b : Byte) : (s.setV x b).redraw = s.redraw := rfl
@[simp] theorem State.setV_status (s : State) (x : Nibble) (b : Byte) : (s.setV x b).status = s.status := rfl
@[simp] theorem State.setV_fault (s : State) (x : Nibble) (b : Byte) : (s.setV x b).fault = s.fault := rfl
@[simp] theorem State.setV_config (s : State) (x : Nibble) (b : Byte) : (s.setV x b).config = s.config := rfl
@[simp] theorem State.setV_inputs (s : State) (x : Nibble) (b : Byte) : (s.setV x b).inputs = s.inputs := rfl
@[simp] theorem State.setV_randIn (s : State) (x : Nibble) (b : Byte) : (s.setV x b).randIn = s.randIn := rfl
@[simp] theorem State.setV_draws (s : State) (x : Nibble) (b : Byte) : (s.setV x b).draws = s.draws := rfl

/-! ## `State.storeBytes` -/

@[simp] theorem State.storeBytes_mem (s : State) (a : Nat) (bytes : List Byte) : (s.storeBytes a bytes).mem = memPutBytes s.config.fontBase s.mem a bytes := rfl
@[simp] theorem State.storeBytes_v (s : State) (a : Nat) (bytes : List Byte) : (s.storeBytes a bytes).v = s.v := rfl
@[simp] theorem State.storeBytes_i (s : State) (a : Nat) (bytes : List Byte) : (s.storeBytes a bytes).i = s.i := rfl
@[simp] theorem State.storeBytes_pc (s : State) (a : Nat) (bytes : List Byte) : (s.storeBytes a bytes).pc = s.pc := rfl
@[simp] theorem State.storeBytes_sp (s : State) (a : Nat) (bytes : List Byte) : (s.storeBytes a bytes).sp = s.sp := rfl
@[simp] theorem State.storeBytes_stack (s : State) (a : Nat) (bytes : List Byte) : (s.storeBytes a bytes).stack = s.stack := rfl
@[simp] theorem State.storeBytes_dt (s : State) (a : Nat) (bytes : List Byte) : (s.storeBytes a bytes).dt = s.dt := rfl
@[simp] theorem State.storeBytes_st (s : State) (a : Nat) (bytes : List Byte) : (s.storeBytes a bytes).st = s.st := rfl
@[simp] theorem State.storeBytes_keys (s : State) (a : Nat) (bytes : List Byte) : (s.storeBytes a bytes).keys = s.keys := rfl
@[simp] theorem State.storeBytes_kprev (s : State) (a : Nat) (bytes : List Byte) : (s.storeBytes a bytes).kprev = s.kprev := rfl
@[simp] theorem State.storeBytes_grid (s : State) (a : Nat) (bytes : List Byte) : (s.storeBytes a bytes).grid = s.grid := rfl
@[simp] theorem State.storeBytes_redraw (s : State) (a : Nat) (bytes : List Byte) : (s.storeBytes a bytes).redraw = s.redraw := rfl
@[simp] theorem State.storeBytes_status (s : State) (a : Nat) (bytes : List Byte) : (s.storeBytes a bytes).status = s.status := rfl
@[simp] theorem State.storeBytes_fault (s : State) (a : Nat) (bytes : List Byte) : (s.storeBytes a bytes).fault = s.fault := rfl
@[simp] theorem State.storeBytes_config (s : State) (a : Nat) (bytes : List Byte) : (s.storeBytes a bytes).config = s.config := rfl
@[simp] theorem State.storeBytes_inputs (s : State) (a : Nat) (bytes : List Byte) : (s.storeBytes a bytes).inputs = s.inputs := rfl
@[simp] theorem State.storeBytes_randIn (s : State) (a : Nat) (bytes : List Byte) : (s.storeBytes a bytes).randIn = s.randIn := rfl
@[simp] theorem State.storeBytes_draws (s : State) (a : Nat) (bytes : List Byte) : (s.storeBytes a bytes).draws = s.draws := rfl

/-! ## `State.advance` -/

@[simp] theorem State.advance_mem (s : State) : (s.advance).mem = s.mem := rfl
@[simp] theorem State.advance_v (s : State) : (s.advance).v = s.v := rfl
@[simp] theorem State.advance_i (s : State) : (s.advance).i = s.i := rfl
@[simp] theorem State.advance_pc (s : State) : (s.advance).pc = s.pc + 2 := rfl
@[simp] theorem State.advance_sp (s : State) : (s.advance).sp = s.sp := rfl
@[simp] theorem State.advance_stack (s : State) : (s.advance).stack = s.stack := rfl
@[simp] theorem State.advance_dt (s : State) : (s.advance).dt = s.dt := rfl
@[simp] theorem State.advance_st (s : State) : (s.advance).st = s.st := rfl
@[simp] theorem State.advance_keys (s : State) : (s.advance).keys = s.keys := rfl
@[simp] theorem State.advance_kprev (s : State) : (s.advance).kprev = s.kprev := rfl
@[simp] theorem State.advance_grid (s : State) : (s.advance).grid = s.grid := rfl
@[simp] theorem State.advance_redraw (s : State) : (s.advance).redraw = s.redraw := rfl
@[simp] theorem State.advance_status (s : State) : (s.advance).status = s.status := rfl
@[simp] theorem State.advance_fault (s : State) : (s.advance).fault = s.fault := rfl
@[simp] theorem State.advance_config (s : State) : (s.advance).config = s.config := rfl
@[simp] theorem State.advance_inputs (s : State) : (s.advance).inputs = s.inputs := rfl
@[simp] theorem State.advance_randIn (s : State) : (s.advance).randIn = s.randIn := rfl
@[simp] theorem State.advance_draws (s : State) : (s.advance).draws = s.draws := rfl

/-! ## `State.jump` -/

@[simp] theorem State.jump_mem (s : State) (target : Word) : (s.jump target).mem = s.mem := rfl
@[simp] theorem State.jump_v (s : State) (target : Word) : (s.jump target).v = s.v := rfl
@[simp] theorem State.jump_i (s : State) (target : Word) : (s.jump target).i = s.i := rfl
@[simp] theorem State.jump_pc (s : State) (target : Word) : (s.jump target).pc = target := rfl
@[simp] theorem State.jump_sp (s : State) (target : Word) : (s.jump target).sp = s.sp := rfl
@[simp] theorem State.jump_stack (s : State) (target : Word) : (s.jump target).stack = s.stack := rfl
@[simp] theorem State.jump_dt (s : State) (target : Word) : (s.jump target).dt = s.dt := rfl
@[simp] theorem State.jump_st (s : State) (target : Word) : (s.jump target).st = s.st := rfl
@[simp] theorem State.jump_keys (s : State) (target : Word) : (s.jump target).keys = s.keys := rfl
@[simp] theorem State.jump_kprev (s : State) (target : Word) : (s.jump target).kprev = s.kprev := rfl
@[simp] theorem State.jump_grid (s : State) (target : Word) : (s.jump target).grid = s.grid := rfl
@[simp] theorem State.jump_redraw (s : State) (target : Word) : (s.jump target).redraw = s.redraw := rfl
@[simp] theorem State.jump_status (s : State) (target : Word) : (s.jump target).status = s.status := rfl
@[simp] theorem State.jump_fault (s : State) (target : Word) : (s.jump target).fault = s.fault := rfl
@[simp] theorem State.jump_config (s : State) (target : Word) : (s.jump target).config = s.config := rfl
@[simp] theorem State.jump_inputs (s : State) (target : Word) : (s.jump target).inputs = s.inputs := rfl
@[simp] theorem State.jump_randIn (s : State) (target : Word) : (s.jump target).randIn = s.randIn := rfl
@[simp] theorem State.jump_draws (s : State) (target : Word) : (s.jump target).draws = s.draws := rfl

/-! ## `State.setDisplay` -/

@[simp] theorem State.setDisplay_mem (s : State) (g : Grid) : (s.setDisplay g).mem = s.mem := rfl
@[simp] theorem State.setDisplay_v (s : State) (g : Grid) : (s.setDisplay g).v = s.v := rfl
@[simp] theorem State.setDisplay_i (s : State) (g : Grid) : (s.setDisplay g).i = s.i := rfl
@[simp] theorem State.setDisplay_pc (s : State) (g : Grid) : (s.setDisplay g).pc = s.pc := rfl
@[simp] theorem State.setDisplay_sp (s : State) (g : Grid) : (s.setDisplay g).sp = s.sp := rfl
@[simp] theorem State.setDisplay_stack (s : State) (g : Grid) : (s.setDisplay g).stack = s.stack := rfl
@[simp] theorem State.setDisplay_dt (s : State) (g : Grid) : (s.setDisplay g).dt = s.dt := rfl
@[simp] theorem State.setDisplay_st (s : State) (g : Grid) : (s.setDisplay g).st = s.st := rfl
@[simp] theorem State.setDisplay_keys (s : State) (g : Grid) : (s.setDisplay g).keys = s.keys := rfl
@[simp] theorem State.setDisplay_kprev (s : State) (g : Grid) : (s.setDisplay g).kprev = s.kprev := rfl
@[simp] theorem State.setDisplay_grid (s : State) (g : Grid) : (s.setDisplay g).grid = g := rfl
@[simp] theorem State.setDisplay_redraw (s : State) (g : Grid) : (s.setDisplay g).redraw = true := rfl
@[simp] theorem State.setDisplay_status (s : State) (g : Grid) : (s.setDisplay g).status = s.status := rfl
@[simp] theorem State.setDisplay_fault (s : State) (g : Grid) : (s.setDisplay g).fault = s.fault := rfl
@[simp] theorem State.setDisplay_config (s : State) (g : Grid) : (s.setDisplay g).config = s.config := rfl
@[simp] theorem State.setDisplay_inputs (s : State) (g : Grid) : (s.setDisplay g).inputs = s.inputs := rfl
@[simp] theorem State.setDisplay_randIn (s : State) (g : Grid) : (s.setDisplay g).randIn = s.randIn := rfl
@[simp] theorem State.setDisplay_draws (s : State) (g : Grid) : (s.setDisplay g).draws = s.draws := rfl

/-! ## `State.setI` -/

@[simp] theorem State.setI_mem (s : State) (a : Word) : (s.setI a).mem = s.mem := rfl
@[simp] theorem State.setI_v (s : State) (a : Word) : (s.setI a).v = s.v := rfl
@[simp] theorem State.setI_i (s : State) (a : Word) : (s.setI a).i = a := rfl
@[simp] theorem State.setI_pc (s : State) (a : Word) : (s.setI a).pc = s.pc := rfl
@[simp] theorem State.setI_sp (s : State) (a : Word) : (s.setI a).sp = s.sp := rfl
@[simp] theorem State.setI_stack (s : State) (a : Word) : (s.setI a).stack = s.stack := rfl
@[simp] theorem State.setI_dt (s : State) (a : Word) : (s.setI a).dt = s.dt := rfl
@[simp] theorem State.setI_st (s : State) (a : Word) : (s.setI a).st = s.st := rfl
@[simp] theorem State.setI_keys (s : State) (a : Word) : (s.setI a).keys = s.keys := rfl
@[simp] theorem State.setI_kprev (s : State) (a : Word) : (s.setI a).kprev = s.kprev := rfl
@[simp] theorem State.setI_grid (s : State) (a : Word) : (s.setI a).grid = s.grid := rfl
@[simp] theorem State.setI_redraw (s : State) (a : Word) : (s.setI a).redraw = s.redraw := rfl
@[simp] theorem State.setI_status (s : State) (a : Word) : (s.setI a).status = s.status := rfl
@[simp] theorem State.setI_fault (s : State) (a : Word) : (s.setI a).fault = s.fault := rfl
@[simp] theorem State.setI_config (s : State) (a : Word) : (s.setI a).config = s.config := rfl
@[simp] theorem State.setI_inputs (s : State) (a : Word) : (s.setI a).inputs = s.inputs := rfl
@[simp] theorem State.setI_randIn (s : State) (a : Word) : (s.setI a).randIn = s.randIn := rfl
@[simp] theorem State.setI_draws (s : State) (a : Word) : (s.setI a).draws = s.draws := rfl

/-! ## `State.setDT` -/

@[simp] theorem State.setDT_mem (s : State) (b : Byte) : (s.setDT b).mem = s.mem := rfl
@[simp] theorem State.setDT_v (s : State) (b : Byte) : (s.setDT b).v = s.v := rfl
@[simp] theorem State.setDT_i (s : State) (b : Byte) : (s.setDT b).i = s.i := rfl
@[simp] theorem State.setDT_pc (s : State) (b : Byte) : (s.setDT b).pc = s.pc := rfl
@[simp] theorem State.setDT_sp (s : State) (b : Byte) : (s.setDT b).sp = s.sp := rfl
@[simp] theorem State.setDT_stack (s : State) (b : Byte) : (s.setDT b).stack = s.stack := rfl
@[simp] theorem State.setDT_dt (s : State) (b : Byte) : (s.setDT b).dt = b := rfl
@[simp] theorem State.setDT_st (s : State) (b : Byte) : (s.setDT b).st = s.st := rfl
@[simp] theorem State.setDT_keys (s : State) (b : Byte) : (s.setDT b).keys = s.keys := rfl
@[simp] theorem State.setDT_kprev (s : State) (b : Byte) : (s.setDT b).kprev = s.kprev := rfl
@[simp] theorem State.setDT_grid (s : State) (b : Byte) : (s.setDT b).grid = s.grid := rfl
@[simp] theorem State.setDT_redraw (s : State) (b : Byte) : (s.setDT b).redraw = s.redraw := rfl
@[simp] theorem State.setDT_status (s : State) (b : Byte) : (s.setDT b).status = s.status := rfl
@[simp] theorem State.setDT_fault (s : State) (b : Byte) : (s.setDT b).fault = s.fault := rfl
@[simp] theorem State.setDT_config (s : State) (b : Byte) : (s.setDT b).config = s.config := rfl
@[simp] theorem State.setDT_inputs (s : State) (b : Byte) : (s.setDT b).inputs = s.inputs := rfl
@[simp] theorem State.setDT_randIn (s : State) (b : Byte) : (s.setDT b).randIn = s.randIn := rfl
@[simp] theorem State.setDT_draws (s : State) (b : Byte) : (s.setDT b).draws = s.draws := rfl

/-! ## `State.setST` -/

@[simp] theorem State.setST_mem (s : State) (b : Byte) : (s.setST b).mem = s.mem := rfl
@[simp] theorem State.setST_v (s : State) (b : Byte) : (s.setST b).v = s.v := rfl
@[simp] theorem State.setST_i (s : State) (b : Byte) : (s.setST b).i = s.i := rfl
@[simp] theorem State.setST_pc (s : State) (b : Byte) : (s.setST b).pc = s.pc := rfl
@[simp] theorem State.setST_sp (s : State) (b : Byte) : (s.setST b).sp = s.sp := rfl
@[simp] theorem State.setST_stack (s : State) (b : Byte) : (s.setST b).stack = s.stack := rfl
@[simp] theorem State.setST_dt (s : State) (b : Byte) : (s.setST b).dt = s.dt := rfl
@[simp] theorem State.setST_st (s : State) (b : Byte) : (s.setST b).st = b := rfl
@[simp] theorem State.setST_keys (s : State) (b : Byte) : (s.setST b).keys = s.keys := rfl
@[simp] theorem State.setST_kprev (s : State) (b : Byte) : (s.setST b).kprev = s.kprev := rfl
@[simp] theorem State.setST_grid (s : State) (b : Byte) : (s.setST b).grid = s.grid := rfl
@[simp] theorem State.setST_redraw (s : State) (b : Byte) : (s.setST b).redraw = s.redraw := rfl
@[simp] theorem State.setST_status (s : State) (b : Byte) : (s.setST b).status = s.status := rfl
@[simp] theorem State.setST_fault (s : State) (b : Byte) : (s.setST b).fault = s.fault := rfl
@[simp] theorem State.setST_config (s : State) (b : Byte) : (s.setST b).config = s.config := rfl
@[simp] theorem State.setST_inputs (s : State) (b : Byte) : (s.setST b).inputs = s.inputs := rfl
@[simp] theorem State.setST_randIn (s : State) (b : Byte) : (s.setST b).randIn = s.randIn := rfl
@[simp] theorem State.setST_draws (s : State) (b : Byte) : (s.setST b).draws = s.draws := rfl

/-! ## `State.completed` -/

@[simp] theorem State.completed_mem (s : State) : (s.completed).mem = s.mem := rfl
@[simp] theorem State.completed_v (s : State) : (s.completed).v = s.v := rfl
@[simp] theorem State.completed_i (s : State) : (s.completed).i = s.i := rfl
@[simp] theorem State.completed_pc (s : State) : (s.completed).pc = s.pc := rfl
@[simp] theorem State.completed_sp (s : State) : (s.completed).sp = s.sp := rfl
@[simp] theorem State.completed_stack (s : State) : (s.completed).stack = s.stack := rfl
@[simp] theorem State.completed_dt (s : State) : (s.completed).dt = s.dt := rfl
@[simp] theorem State.completed_st (s : State) : (s.completed).st = s.st := rfl
@[simp] theorem State.completed_keys (s : State) : (s.completed).keys = s.keys := rfl
@[simp] theorem State.completed_kprev (s : State) : (s.completed).kprev = s.keys := rfl
@[simp] theorem State.completed_grid (s : State) : (s.completed).grid = s.grid := rfl
@[simp] theorem State.completed_redraw (s : State) : (s.completed).redraw = s.redraw := rfl
@[simp] theorem State.completed_status (s : State) : (s.completed).status = .ready := rfl
@[simp] theorem State.completed_fault (s : State) : (s.completed).fault = s.fault := rfl
@[simp] theorem State.completed_config (s : State) : (s.completed).config = s.config := rfl
@[simp] theorem State.completed_inputs (s : State) : (s.completed).inputs = s.inputs := rfl
@[simp] theorem State.completed_randIn (s : State) : (s.completed).randIn = s.randIn := rfl
@[simp] theorem State.completed_draws (s : State) : (s.completed).draws = s.draws := rfl

/-! ## `State.waiting` -/

@[simp] theorem State.waiting_mem (s : State) : (s.waiting).mem = s.mem := rfl
@[simp] theorem State.waiting_v (s : State) : (s.waiting).v = s.v := rfl
@[simp] theorem State.waiting_i (s : State) : (s.waiting).i = s.i := rfl
@[simp] theorem State.waiting_pc (s : State) : (s.waiting).pc = s.pc := rfl
@[simp] theorem State.waiting_sp (s : State) : (s.waiting).sp = s.sp := rfl
@[simp] theorem State.waiting_stack (s : State) : (s.waiting).stack = s.stack := rfl
@[simp] theorem State.waiting_dt (s : State) : (s.waiting).dt = s.dt := rfl
@[simp] theorem State.waiting_st (s : State) : (s.waiting).st = s.st := rfl
@[simp] theorem State.waiting_keys (s : State) : (s.waiting).keys = s.keys := rfl
@[simp] theorem State.waiting_kprev (s : State) : (s.waiting).kprev = s.keys := rfl
@[simp] theorem State.waiting_grid (s : State) : (s.waiting).grid = s.grid := rfl
@[simp] theorem State.waiting_redraw (s : State) : (s.waiting).redraw = s.redraw := rfl
@[simp] theorem State.waiting_status (s : State) : (s.waiting).status = .waitKey := rfl
@[simp] theorem State.waiting_fault (s : State) : (s.waiting).fault = s.fault := rfl
@[simp] theorem State.waiting_config (s : State) : (s.waiting).config = s.config := rfl
@[simp] theorem State.waiting_inputs (s : State) : (s.waiting).inputs = s.inputs := rfl
@[simp] theorem State.waiting_randIn (s : State) : (s.waiting).randIn = s.randIn := rfl
@[simp] theorem State.waiting_draws (s : State) : (s.waiting).draws = s.draws := rfl

/-! ## `State.faulted` -/

@[simp] theorem State.faulted_mem (s : State) (word : Option Word) (f : FaultInfo) : (s.faulted word f).mem = s.mem := rfl
@[simp] theorem State.faulted_v (s : State) (word : Option Word) (f : FaultInfo) : (s.faulted word f).v = s.v := rfl
@[simp] theorem State.faulted_i (s : State) (word : Option Word) (f : FaultInfo) : (s.faulted word f).i = s.i := rfl
@[simp] theorem State.faulted_pc (s : State) (word : Option Word) (f : FaultInfo) : (s.faulted word f).pc = s.pc := rfl
@[simp] theorem State.faulted_sp (s : State) (word : Option Word) (f : FaultInfo) : (s.faulted word f).sp = s.sp := rfl
@[simp] theorem State.faulted_stack (s : State) (word : Option Word) (f : FaultInfo) : (s.faulted word f).stack = s.stack := rfl
@[simp] theorem State.faulted_dt (s : State) (word : Option Word) (f : FaultInfo) : (s.faulted word f).dt = s.dt := rfl
@[simp] theorem State.faulted_st (s : State) (word : Option Word) (f : FaultInfo) : (s.faulted word f).st = s.st := rfl
@[simp] theorem State.faulted_keys (s : State) (word : Option Word) (f : FaultInfo) : (s.faulted word f).keys = s.keys := rfl
@[simp] theorem State.faulted_kprev (s : State) (word : Option Word) (f : FaultInfo) : (s.faulted word f).kprev = s.kprev := rfl
@[simp] theorem State.faulted_grid (s : State) (word : Option Word) (f : FaultInfo) : (s.faulted word f).grid = s.grid := rfl
@[simp] theorem State.faulted_redraw (s : State) (word : Option Word) (f : FaultInfo) : (s.faulted word f).redraw = s.redraw := rfl
@[simp] theorem State.faulted_status (s : State) (word : Option Word) (f : FaultInfo) : (s.faulted word f).status = .faulted := rfl
@[simp] theorem State.faulted_fault (s : State) (word : Option Word) (f : FaultInfo) : (s.faulted word f).fault = some { info := f, pc := s.pc, word := word } := rfl
@[simp] theorem State.faulted_config (s : State) (word : Option Word) (f : FaultInfo) : (s.faulted word f).config = s.config := rfl
@[simp] theorem State.faulted_inputs (s : State) (word : Option Word) (f : FaultInfo) : (s.faulted word f).inputs = s.inputs := rfl
@[simp] theorem State.faulted_randIn (s : State) (word : Option Word) (f : FaultInfo) : (s.faulted word f).randIn = s.randIn := rfl
@[simp] theorem State.faulted_draws (s : State) (word : Option Word) (f : FaultInfo) : (s.faulted word f).draws = s.draws := rfl

/-! ## `State.tick` -/

@[simp] theorem State.tick_mem (s : State) : (s.tick).mem = s.mem := rfl
@[simp] theorem State.tick_v (s : State) : (s.tick).v = s.v := rfl
@[simp] theorem State.tick_i (s : State) : (s.tick).i = s.i := rfl
@[simp] theorem State.tick_pc (s : State) : (s.tick).pc = s.pc := rfl
@[simp] theorem State.tick_sp (s : State) : (s.tick).sp = s.sp := rfl
@[simp] theorem State.tick_stack (s : State) : (s.tick).stack = s.stack := rfl
@[simp] theorem State.tick_dt (s : State) : (s.tick).dt = tickTimer s.dt := rfl
@[simp] theorem State.tick_st (s : State) : (s.tick).st = tickTimer s.st := rfl
@[simp] theorem State.tick_keys (s : State) : (s.tick).keys = s.keys := rfl
@[simp] theorem State.tick_kprev (s : State) : (s.tick).kprev = s.kprev := rfl
@[simp] theorem State.tick_grid (s : State) : (s.tick).grid = s.grid := rfl
@[simp] theorem State.tick_redraw (s : State) : (s.tick).redraw = s.redraw := rfl
@[simp] theorem State.tick_status (s : State) : (s.tick).status = s.status := rfl
@[simp] theorem State.tick_fault (s : State) : (s.tick).fault = s.fault := rfl
@[simp] theorem State.tick_config (s : State) : (s.tick).config = s.config := rfl
@[simp] theorem State.tick_inputs (s : State) : (s.tick).inputs = s.inputs := rfl
@[simp] theorem State.tick_randIn (s : State) : (s.tick).randIn = s.randIn := rfl
@[simp] theorem State.tick_draws (s : State) : (s.tick).draws = s.draws := rfl

/-! ## `State.setKeys` -/

@[simp] theorem State.setKeys_mem (s : State) (k : Word) : (s.setKeys k).mem = s.mem := rfl
@[simp] theorem State.setKeys_v (s : State) (k : Word) : (s.setKeys k).v = s.v := rfl
@[simp] theorem State.setKeys_i (s : State) (k : Word) : (s.setKeys k).i = s.i := rfl
@[simp] theorem State.setKeys_pc (s : State) (k : Word) : (s.setKeys k).pc = s.pc := rfl
@[simp] theorem State.setKeys_sp (s : State) (k : Word) : (s.setKeys k).sp = s.sp := rfl
@[simp] theorem State.setKeys_stack (s : State) (k : Word) : (s.setKeys k).stack = s.stack := rfl
@[simp] theorem State.setKeys_dt (s : State) (k : Word) : (s.setKeys k).dt = s.dt := rfl
@[simp] theorem State.setKeys_st (s : State) (k : Word) : (s.setKeys k).st = s.st := rfl
@[simp] theorem State.setKeys_keys (s : State) (k : Word) : (s.setKeys k).keys = k := rfl
@[simp] theorem State.setKeys_kprev (s : State) (k : Word) : (s.setKeys k).kprev = s.kprev := rfl
@[simp] theorem State.setKeys_grid (s : State) (k : Word) : (s.setKeys k).grid = s.grid := rfl
@[simp] theorem State.setKeys_redraw (s : State) (k : Word) : (s.setKeys k).redraw = s.redraw := rfl
@[simp] theorem State.setKeys_status (s : State) (k : Word) : (s.setKeys k).status = s.status := rfl
@[simp] theorem State.setKeys_fault (s : State) (k : Word) : (s.setKeys k).fault = s.fault := rfl
@[simp] theorem State.setKeys_config (s : State) (k : Word) : (s.setKeys k).config = s.config := rfl
@[simp] theorem State.setKeys_inputs (s : State) (k : Word) : (s.setKeys k).inputs = s.inputs := rfl
@[simp] theorem State.setKeys_randIn (s : State) (k : Word) : (s.setKeys k).randIn = s.randIn := rfl
@[simp] theorem State.setKeys_draws (s : State) (k : Word) : (s.setKeys k).draws = s.draws := rfl

/-! ## `State.frameAck` -/

@[simp] theorem State.frameAck_mem (s : State) : (s.frameAck).mem = s.mem := rfl
@[simp] theorem State.frameAck_v (s : State) : (s.frameAck).v = s.v := rfl
@[simp] theorem State.frameAck_i (s : State) : (s.frameAck).i = s.i := rfl
@[simp] theorem State.frameAck_pc (s : State) : (s.frameAck).pc = s.pc := rfl
@[simp] theorem State.frameAck_sp (s : State) : (s.frameAck).sp = s.sp := rfl
@[simp] theorem State.frameAck_stack (s : State) : (s.frameAck).stack = s.stack := rfl
@[simp] theorem State.frameAck_dt (s : State) : (s.frameAck).dt = s.dt := rfl
@[simp] theorem State.frameAck_st (s : State) : (s.frameAck).st = s.st := rfl
@[simp] theorem State.frameAck_keys (s : State) : (s.frameAck).keys = s.keys := rfl
@[simp] theorem State.frameAck_kprev (s : State) : (s.frameAck).kprev = s.kprev := rfl
@[simp] theorem State.frameAck_grid (s : State) : (s.frameAck).grid = s.grid := rfl
@[simp] theorem State.frameAck_redraw (s : State) : (s.frameAck).redraw = false := rfl
@[simp] theorem State.frameAck_status (s : State) : (s.frameAck).status = s.status := rfl
@[simp] theorem State.frameAck_fault (s : State) : (s.frameAck).fault = s.fault := rfl
@[simp] theorem State.frameAck_config (s : State) : (s.frameAck).config = s.config := rfl
@[simp] theorem State.frameAck_inputs (s : State) : (s.frameAck).inputs = s.inputs := rfl
@[simp] theorem State.frameAck_randIn (s : State) : (s.frameAck).randIn = s.randIn := rfl
@[simp] theorem State.frameAck_draws (s : State) : (s.frameAck).draws = s.draws := rfl

end Sys2Proof.Machine
end

