-- ==== Sys2Proof/Laws/Ops.lean ====
section
/-! SUPPORT. One lemma per shared operation: everything the operation can do. -/

namespace Sys2Proof.Machine

/-! ## General registers -/

theorem State.getV_setV (s : State) (x r : Nibble) (b : Byte) :
    (s.setV x b).getV r = if r = x then b else s.getV r := by
  unfold State.getV State.setV
  by_cases h : r = x
  · subst h; simp
  · have : x.toNat ≠ r.toNat := fun e => h (BitVec.eq_of_toNat_eq e.symm)
    simp [h, this]

@[simp] theorem State.getV_setV_same (s : State) (x : Nibble) (b : Byte) : (s.setV x b).getV x = b := by
  simp [State.getV_setV]

@[simp] theorem State.getV_setV_other (s : State) {x r : Nibble} (b : Byte) (h : r ≠ x) :
    (s.setV x b).getV r = s.getV r := by
  simp [State.getV_setV, h]

/-- `getV` sees the register file only. -/
theorem State.getV_congr {s t : State} (h : t.v = s.v) (r : Nibble) : t.getV r = s.getV r := by
  unfold State.getV; simp [h]

@[simp] theorem State.getV_advance (s : State) (r : Nibble) : s.advance.getV r = s.getV r := rfl
@[simp] theorem State.getV_jump (s : State) (t : Word) (r : Nibble) : (s.jump t).getV r = s.getV r := rfl
@[simp] theorem State.getV_completed (s : State) (r : Nibble) : s.completed.getV r = s.getV r := rfl
@[simp] theorem State.getV_waiting (s : State) (r : Nibble) : s.waiting.getV r = s.getV r := rfl
@[simp] theorem State.getV_setDisplay (s : State) (g : Grid) (r : Nibble) : (s.setDisplay g).getV r = s.getV r := rfl
@[simp] theorem State.getV_setI (s : State) (a : Word) (r : Nibble) : (s.setI a).getV r = s.getV r := rfl
@[simp] theorem State.getV_setDT (s : State) (b : Byte) (r : Nibble) : (s.setDT b).getV r = s.getV r := rfl
@[simp] theorem State.getV_setST (s : State) (b : Byte) (r : Nibble) : (s.setST b).getV r = s.getV r := rfl
@[simp] theorem State.getV_storeBytes (s : State) (a : Nat) (bs : List Byte) (r : Nibble) :
    (s.storeBytes a bs).getV r = s.getV r := rfl

/-- A block load writes only the register file. -/
theorem State.loadRegs_eq (s : State) (i : Nat) (vals : List Byte) :
    s.loadRegs i vals = { s with v := (s.loadRegs i vals).v } := by
  induction vals generalizing s i with
  | nil => rfl
  | cons b rest ih => rw [State.loadRegs, ih]; rfl

/-- Register r after a block load of registers i, i+1, ... that stays within V0..VF. -/
theorem State.getV_loadRegs (s : State) (i : Nat) (vals : List Byte) (r : Nibble) (h : i + vals.length ≤ 16) :
    (s.loadRegs i vals).getV r =
      if i ≤ r.toNat ∧ r.toNat < i + vals.length then vals.getD (r.toNat - i) 0 else s.getV r := by
  induction vals generalizing s i with
  | nil => simp [State.loadRegs, show ¬ (i ≤ r.toNat ∧ r.toNat < i) by omega]
  | cons b rest ih =>
    simp only [List.length_cons] at h ⊢
    rw [State.loadRegs, ih _ _ (by omega), State.getV_setV]
    have hi : (BitVec.ofNat 4 i).toNat = i := by simp; omega
    by_cases hr : r = BitVec.ofNat 4 i
    · have hri : r.toNat = i := by rw [hr, hi]
      simp [hr, hi]
    · have hri : r.toNat ≠ i := fun e => hr (BitVec.eq_of_toNat_eq (by rw [hi, e]))
      by_cases hin : i + 1 ≤ r.toNat ∧ r.toNat < i + 1 + rest.length
      · have : r.toNat - i = (r.toNat - (i + 1)) + 1 := by omega
        rw [if_pos hin, if_pos (by omega), this, List.getD_cons_succ]
      · rw [if_neg hin, if_neg hr, if_neg (by omega)]

@[simp] theorem State.length_regsUpTo (s : State) (x : Nibble) : (s.regsUpTo x).length = x.toNat + 1 := by
  simp [State.regsUpTo]

/-- Element j of `[V[0], ..., V[x]]`. -/
theorem State.getD_regsUpTo (s : State) (x : Nibble) (j : Nat) (h : j ≤ x.toNat) :
    (s.regsUpTo x).getD j 0 = s.getV (BitVec.ofNat 4 j) := by
  have hj : j < x.toNat + 1 := by omega
  simp [State.regsUpTo, List.getD_eq_getElem?_getD, hj]

/-! ## Memory accesses -/

/-- `readByte` sees memory and FONT_BASE only. -/
theorem State.readByte_congr {s t : State} (hm : t.mem = s.mem) (hc : t.config = s.config) (a : Nat) :
    t.readByte a = s.readByte a := by
  unfold State.readByte; rw [hm, hc]

@[simp] theorem State.readByte_setV (s : State) (x : Nibble) (b : Byte) (a : Nat) : (s.setV x b).readByte a = s.readByte a := rfl
@[simp] theorem State.readByte_advance (s : State) (a : Nat) : s.advance.readByte a = s.readByte a := rfl
@[simp] theorem State.readByte_jump (s : State) (t : Word) (a : Nat) : (s.jump t).readByte a = s.readByte a := rfl
@[simp] theorem State.readByte_completed (s : State) (a : Nat) : s.completed.readByte a = s.readByte a := rfl
@[simp] theorem State.readByte_waiting (s : State) (a : Nat) : s.waiting.readByte a = s.readByte a := rfl
@[simp] theorem State.readByte_faulted (s : State) (w : Option Word) (f : FaultInfo) (a : Nat) :
    (s.faulted w f).readByte a = s.readByte a := rfl
@[simp] theorem State.readByte_setDisplay (s : State) (g : Grid) (a : Nat) : (s.setDisplay g).readByte a = s.readByte a := rfl
@[simp] theorem State.readByte_setI (s : State) (w : Word) (a : Nat) : (s.setI w).readByte a = s.readByte a := rfl
@[simp] theorem State.readByte_setDT (s : State) (b : Byte) (a : Nat) : (s.setDT b).readByte a = s.readByte a := rfl
@[simp] theorem State.readByte_setST (s : State) (b : Byte) (a : Nat) : (s.setST b).readByte a = s.readByte a := rfl

/-- A byte after a store: the stored one inside the range, the old one outside. -/
theorem State.readByte_storeBytes (s : State) (a k : Nat) (bytes : List Byte) :
    (s.storeBytes a bytes).readByte k =
      if a ≤ k ∧ k < a + bytes.length then bytes.getD (k - a) 0 else s.readByte k :=
  memByte_memPutBytes _ _ _ _ _

@[simp] theorem State.length_readBytes (s : State) (a n : Nat) : (s.readBytes a n).length = n := by
  simp [State.readBytes]

theorem State.getD_readBytes (s : State) (a n j : Nat) (h : j < n) :
    (s.readBytes a n).getD j 0 = s.readByte (a + j) := by
  simp [State.readBytes, List.getD_eq_getElem?_getD, h]

/-- The bounds check passes exactly when the range is empty or ends inside memory. -/
theorem boundsCheck_eq_none {addr : Word} {n : Nat} : boundsCheck addr n = none ↔ n = 0 ∨ addr.toNat + n ≤ memSize := by
  unfold boundsCheck; split <;> (simp; omega)

theorem boundsCheck_of_outside {addr : Word} {n : Nat} (h0 : 0 < n) (h : memSize < addr.toNat + n) :
    boundsCheck addr n = some { kind := .memoryBounds, address := some (lowestOutside addr), value := none } := by
  simp [boundsCheck, h0, h]

theorem reservedCheck_eq_none {p : WritePolicy} {addr : Word} {n : Nat} :
    reservedCheck p addr n = none ↔ p = .perform ∨ n = 0 ∨ reservedEnd ≤ addr.toNat := by
  unfold reservedCheck; cases p <;> simp; omega

/-- A checked read reads nothing and answers MEMORY_BOUNDS, or answers the bytes. -/
theorem State.memRead_cases (s : State) (addr : Word) (n : Nat) :
    (0 < n ∧ memSize < addr.toNat + n ∧
      s.memRead addr n = .error { kind := .memoryBounds, address := some (lowestOutside addr), value := none }) ∨
    ((n = 0 ∨ addr.toNat + n ≤ memSize) ∧ s.memRead addr n = .ok (s.readBytes addr.toNat n)) := by
  unfold State.memRead
  by_cases h : 0 < n ∧ memSize < addr.toNat + n
  · left; rw [boundsCheck_of_outside h.1 h.2]; exact ⟨h.1, h.2, rfl⟩
  · right
    have hn : n = 0 ∨ addr.toNat + n ≤ memSize := by omega
    rw [boundsCheck_eq_none.mpr hn]; exact ⟨hn, rfl⟩

/-- A checked write answers MEMORY_BOUNDS, or RESERVED_WRITE, or stores the whole range. -/
theorem State.memWrite_cases (s : State) (addr : Word) (bytes : List Byte) :
    (0 < bytes.length ∧ memSize < addr.toNat + bytes.length ∧
      s.memWrite addr bytes = .error { kind := .memoryBounds, address := some (lowestOutside addr), value := none }) ∨
    (s.config.reservedWrite = .fault ∧ 0 < bytes.length ∧ addr.toNat + bytes.length ≤ memSize ∧ addr.toNat < reservedEnd ∧
      s.memWrite addr bytes = .error { kind := .reservedWrite, address := some addr, value := none }) ∨
    ((bytes.length = 0 ∨ addr.toNat + bytes.length ≤ memSize) ∧
      (s.config.reservedWrite = .perform ∨ bytes.length = 0 ∨ reservedEnd ≤ addr.toNat) ∧
      s.memWrite addr bytes = .ok (s.storeBytes addr.toNat bytes)) := by
  unfold State.memWrite
  by_cases h : 0 < bytes.length ∧ memSize < addr.toNat + bytes.length
  · left; rw [boundsCheck_of_outside h.1 h.2]; exact ⟨h.1, h.2, rfl⟩
  · right
    have hn : bytes.length = 0 ∨ addr.toNat + bytes.length ≤ memSize := by omega
    rw [boundsCheck_eq_none.mpr hn]
    by_cases hr : s.config.reservedWrite = .fault ∧ 0 < bytes.length ∧ addr.toNat < reservedEnd
    · left
      refine ⟨hr.1, hr.2.1, by omega, hr.2.2, ?_⟩
      simp [reservedCheck, hr.1, hr.2.1, hr.2.2]
    · right
      have hr' : s.config.reservedWrite = .perform ∨ bytes.length = 0 ∨ reservedEnd ≤ addr.toNat := by
        cases hp : s.config.reservedWrite
        · right; simp only [hp, true_and, not_and] at hr; omega
        · exact .inl rfl
      rw [reservedCheck_eq_none.mpr hr']
      exact ⟨hn, hr', rfl⟩

/-- The fetch answers MEMORY_BOUNDS, or the big-endian word. -/
theorem State.fetchWord_cases (s : State) :
    (memSize < s.pc.toNat + 2 ∧
      s.fetchWord = .error { kind := .memoryBounds, address := some (lowestOutside s.pc), value := none }) ∨
    (s.pc.toNat + 2 ≤ memSize ∧
      s.fetchWord = .ok (wordOfBytes (s.readByte s.pc.toNat) (s.readByte (s.pc.toNat + 1)))) := by
  unfold State.fetchWord
  by_cases h : memSize < s.pc.toNat + 2
  · left; rw [boundsCheck_of_outside (by decide) h]; exact ⟨h, rfl⟩
  · right
    rw [boundsCheck_eq_none.mpr (.inr (by omega))]; exact ⟨by omega, rfl⟩

/-! ## Operands and the arithmetic unit -/

/-- A key or digit number: the number, its low nibble, or OPERAND_RANGE. -/
theorem numberOperand_cases (p : IndexPolicy) (b : Byte) :
    ((b.toNat ≤ 0xF ∨ p = .lowNibble) ∧ numberOperand p b = .ok (b.setWidth 4)) ∨
    (0xF < b.toNat ∧ p = .fault ∧
      numberOperand p b = .error { kind := .operandRange, address := none, value := some b }) := by
  unfold numberOperand
  by_cases h : b.toNat ≤ 0xF
  · left; simp [h]
  · cases p
    · right; exact ⟨by omega, rfl, by simp [h]⟩
    · left; simp [h]

/-- The rand sample: the host's next byte, or the next free value. -/
theorem State.sampleRand_cases (s : State) :
    (∃ b rest, s.randIn = b :: rest ∧ s.sampleRand = (b, { s with randIn := rest })) ∨
    (s.randIn = [] ∧ s.sampleRand = (Config.freeRand s.draws, { s with draws := s.draws + 1 })) := by
  unfold State.sampleRand
  cases h : s.randIn with
  | nil => exact .inr ⟨rfl, rfl⟩
  | cons b rest => exact .inl ⟨b, rest, rfl, rfl⟩

/-- No key, or the lowest one. -/
theorem lowestKey_eq_none {keys : Word} : lowestKey keys = none ↔ ∀ k : Nat, k < 16 → keys.getLsbD k = false := by
  simp [lowestKey]

/-- Table A1's write: a register r after it. -/
theorem State.getV_writeAlu (s : State) (x r : Nibble) (o : AluOut) :
    (s.writeAlu x o).getV r =
      if r = regF ∧ o.flagWe = true then flagByte o.flag else if r = x then o.res else s.getV r := by
  unfold State.writeAlu
  cases o.flagWe <;> simp [State.getV_setV]

/-- Table A1's write touches only the register file. -/
theorem State.writeAlu_eq (s : State) (x : Nibble) (o : AluOut) :
    s.writeAlu x o = { s with v := (s.writeAlu x o).v } := by
  unfold State.writeAlu; cases o.flagWe <;> rfl

end Sys2Proof.Machine
end

