-- ==== Sys2Proof/Laws/PerInstr.lean ====
section
/-! SUPPORT. Laws about every instruction as syntax, one lemma per constructor. -/

namespace Sys2Proof.Laws

/-- The word of an instruction has the fixed bits of its row of 30_encoding.md table E3. -/
def EncodesItsRow.Statement (i : Instr) : Prop :=
  i.ordinal < 34 ∧ (encodingRows.getD i.ordinal ⟨0, 1⟩).matches (encode i)

theorem EncodesItsRow.cls : EncodesItsRow.Statement .cls := ⟨by decide, by decide⟩

theorem EncodesItsRow.ret : EncodesItsRow.Statement .ret := ⟨by decide, by decide⟩

theorem EncodesItsRow.jp (nnn : Addr) : EncodesItsRow.Statement (.jp nnn) := by
  refine ⟨by simp only [Instr.ordinal]; decide, ?_⟩
  show (0x1#4 ++ nnn : Word) &&& 0xF000#16 = 0x1000#16
  ext i hi
  simp only [BitVec.getElem_and, BitVec.getElem_append]
  interval_cases i <;> simp

theorem EncodesItsRow.call (nnn : Addr) : EncodesItsRow.Statement (.call nnn) := by
  refine ⟨by simp only [Instr.ordinal]; decide, ?_⟩
  show (0x2#4 ++ nnn : Word) &&& 0xF000#16 = 0x2000#16
  ext i hi
  simp only [BitVec.getElem_and, BitVec.getElem_append]
  interval_cases i <;> simp

theorem EncodesItsRow.seVK (x : Nibble) (kk : Byte) : EncodesItsRow.Statement (.seVK x kk) := by
  refine ⟨by simp only [Instr.ordinal]; decide, ?_⟩
  show (0x3#4 ++ x ++ kk : Word) &&& 0xF000#16 = 0x3000#16
  ext i hi
  simp only [BitVec.getElem_and, BitVec.getElem_append]
  interval_cases i <;> simp

theorem EncodesItsRow.sneVK (x : Nibble) (kk : Byte) : EncodesItsRow.Statement (.sneVK x kk) := by
  refine ⟨by simp only [Instr.ordinal]; decide, ?_⟩
  show (0x4#4 ++ x ++ kk : Word) &&& 0xF000#16 = 0x4000#16
  ext i hi
  simp only [BitVec.getElem_and, BitVec.getElem_append]
  interval_cases i <;> simp

theorem EncodesItsRow.seVV (x y n : Nibble) : EncodesItsRow.Statement (.seVV x y n) := by
  refine ⟨by simp only [Instr.ordinal]; decide, ?_⟩
  show (0x5#4 ++ x ++ y ++ n : Word) &&& 0xF000#16 = 0x5000#16
  ext i hi
  simp only [BitVec.getElem_and, BitVec.getElem_append]
  interval_cases i <;> simp

theorem EncodesItsRow.ldVK (x : Nibble) (kk : Byte) : EncodesItsRow.Statement (.ldVK x kk) := by
  refine ⟨by simp only [Instr.ordinal]; decide, ?_⟩
  show (0x6#4 ++ x ++ kk : Word) &&& 0xF000#16 = 0x6000#16
  ext i hi
  simp only [BitVec.getElem_and, BitVec.getElem_append]
  interval_cases i <;> simp

theorem EncodesItsRow.addVK (x : Nibble) (kk : Byte) : EncodesItsRow.Statement (.addVK x kk) := by
  refine ⟨by simp only [Instr.ordinal]; decide, ?_⟩
  show (0x7#4 ++ x ++ kk : Word) &&& 0xF000#16 = 0x7000#16
  ext i hi
  simp only [BitVec.getElem_and, BitVec.getElem_append]
  interval_cases i <;> simp

theorem EncodesItsRow.ldVV (x y : Nibble) : EncodesItsRow.Statement (.ldVV x y) := by
  refine ⟨by simp only [Instr.ordinal]; decide, ?_⟩
  show (0x8#4 ++ x ++ y ++ 0x0#4 : Word) &&& 0xF00F#16 = 0x8000#16
  ext i hi
  simp only [BitVec.getElem_and, BitVec.getElem_append]
  interval_cases i <;> simp

theorem EncodesItsRow.orVV (x y : Nibble) : EncodesItsRow.Statement (.orVV x y) := by
  refine ⟨by simp only [Instr.ordinal]; decide, ?_⟩
  show (0x8#4 ++ x ++ y ++ 0x1#4 : Word) &&& 0xF00F#16 = 0x8001#16
  ext i hi
  simp only [BitVec.getElem_and, BitVec.getElem_append]
  interval_cases i <;> simp

theorem EncodesItsRow.andVV (x y : Nibble) : EncodesItsRow.Statement (.andVV x y) := by
  refine ⟨by simp only [Instr.ordinal]; decide, ?_⟩
  show (0x8#4 ++ x ++ y ++ 0x2#4 : Word) &&& 0xF00F#16 = 0x8002#16
  ext i hi
  simp only [BitVec.getElem_and, BitVec.getElem_append]
  interval_cases i <;> simp

theorem EncodesItsRow.xorVV (x y : Nibble) : EncodesItsRow.Statement (.xorVV x y) := by
  refine ⟨by simp only [Instr.ordinal]; decide, ?_⟩
  show (0x8#4 ++ x ++ y ++ 0x3#4 : Word) &&& 0xF00F#16 = 0x8003#16
  ext i hi
  simp only [BitVec.getElem_and, BitVec.getElem_append]
  interval_cases i <;> simp

theorem EncodesItsRow.addVV (x y : Nibble) : EncodesItsRow.Statement (.addVV x y) := by
  refine ⟨by simp only [Instr.ordinal]; decide, ?_⟩
  show (0x8#4 ++ x ++ y ++ 0x4#4 : Word) &&& 0xF00F#16 = 0x8004#16
  ext i hi
  simp only [BitVec.getElem_and, BitVec.getElem_append]
  interval_cases i <;> simp

theorem EncodesItsRow.sub (x y : Nibble) : EncodesItsRow.Statement (.sub x y) := by
  refine ⟨by simp only [Instr.ordinal]; decide, ?_⟩
  show (0x8#4 ++ x ++ y ++ 0x5#4 : Word) &&& 0xF00F#16 = 0x8005#16
  ext i hi
  simp only [BitVec.getElem_and, BitVec.getElem_append]
  interval_cases i <;> simp

theorem EncodesItsRow.shr (x y : Nibble) : EncodesItsRow.Statement (.shr x y) := by
  refine ⟨by simp only [Instr.ordinal]; decide, ?_⟩
  show (0x8#4 ++ x ++ y ++ 0x6#4 : Word) &&& 0xF00F#16 = 0x8006#16
  ext i hi
  simp only [BitVec.getElem_and, BitVec.getElem_append]
  interval_cases i <;> simp

theorem EncodesItsRow.subn (x y : Nibble) : EncodesItsRow.Statement (.subn x y) := by
  refine ⟨by simp only [Instr.ordinal]; decide, ?_⟩
  show (0x8#4 ++ x ++ y ++ 0x7#4 : Word) &&& 0xF00F#16 = 0x8007#16
  ext i hi
  simp only [BitVec.getElem_and, BitVec.getElem_append]
  interval_cases i <;> simp

theorem EncodesItsRow.shl (x y : Nibble) : EncodesItsRow.Statement (.shl x y) := by
  refine ⟨by simp only [Instr.ordinal]; decide, ?_⟩
  show (0x8#4 ++ x ++ y ++ 0xE#4 : Word) &&& 0xF00F#16 = 0x800E#16
  ext i hi
  simp only [BitVec.getElem_and, BitVec.getElem_append]
  interval_cases i <;> simp

theorem EncodesItsRow.sneVV (x y n : Nibble) : EncodesItsRow.Statement (.sneVV x y n) := by
  refine ⟨by simp only [Instr.ordinal]; decide, ?_⟩
  show (0x9#4 ++ x ++ y ++ n : Word) &&& 0xF000#16 = 0x9000#16
  ext i hi
  simp only [BitVec.getElem_and, BitVec.getElem_append]
  interval_cases i <;> simp

theorem EncodesItsRow.ldI (nnn : Addr) : EncodesItsRow.Statement (.ldI nnn) := by
  refine ⟨by simp only [Instr.ordinal]; decide, ?_⟩
  show (0xA#4 ++ nnn : Word) &&& 0xF000#16 = 0xA000#16
  ext i hi
  simp only [BitVec.getElem_and, BitVec.getElem_append]
  interval_cases i <;> simp

theorem EncodesItsRow.jpV0 (nnn : Addr) : EncodesItsRow.Statement (.jpV0 nnn) := by
  refine ⟨by simp only [Instr.ordinal]; decide, ?_⟩
  show (0xB#4 ++ nnn : Word) &&& 0xF000#16 = 0xB000#16
  ext i hi
  simp only [BitVec.getElem_and, BitVec.getElem_append]
  interval_cases i <;> simp

theorem EncodesItsRow.rnd (x : Nibble) (kk : Byte) : EncodesItsRow.Statement (.rnd x kk) := by
  refine ⟨by simp only [Instr.ordinal]; decide, ?_⟩
  show (0xC#4 ++ x ++ kk : Word) &&& 0xF000#16 = 0xC000#16
  ext i hi
  simp only [BitVec.getElem_and, BitVec.getElem_append]
  interval_cases i <;> simp

theorem EncodesItsRow.drw (x y n : Nibble) : EncodesItsRow.Statement (.drw x y n) := by
  refine ⟨by simp only [Instr.ordinal]; decide, ?_⟩
  show (0xD#4 ++ x ++ y ++ n : Word) &&& 0xF000#16 = 0xD000#16
  ext i hi
  simp only [BitVec.getElem_and, BitVec.getElem_append]
  interval_cases i <;> simp

theorem EncodesItsRow.skp (x : Nibble) : EncodesItsRow.Statement (.skp x) := by
  refine ⟨by simp only [Instr.ordinal]; decide, ?_⟩
  show (0xE#4 ++ x ++ 0x9E#8 : Word) &&& 0xF0FF#16 = 0xE09E#16
  ext i hi
  simp only [BitVec.getElem_and, BitVec.getElem_append]
  interval_cases i <;> simp

theorem EncodesItsRow.sknp (x : Nibble) : EncodesItsRow.Statement (.sknp x) := by
  refine ⟨by simp only [Instr.ordinal]; decide, ?_⟩
  show (0xE#4 ++ x ++ 0xA1#8 : Word) &&& 0xF0FF#16 = 0xE0A1#16
  ext i hi
  simp only [BitVec.getElem_and, BitVec.getElem_append]
  interval_cases i <;> simp

theorem EncodesItsRow.ldVDT (x : Nibble) : EncodesItsRow.Statement (.ldVDT x) := by
  refine ⟨by simp only [Instr.ordinal]; decide, ?_⟩
  show (0xF#4 ++ x ++ 0x07#8 : Word) &&& 0xF0FF#16 = 0xF007#16
  ext i hi
  simp only [BitVec.getElem_and, BitVec.getElem_append]
  interval_cases i <;> simp

theorem EncodesItsRow.ldVKey (x : Nibble) : EncodesItsRow.Statement (.ldVKey x) := by
  refine ⟨by simp only [Instr.ordinal]; decide, ?_⟩
  show (0xF#4 ++ x ++ 0x0A#8 : Word) &&& 0xF0FF#16 = 0xF00A#16
  ext i hi
  simp only [BitVec.getElem_and, BitVec.getElem_append]
  interval_cases i <;> simp

theorem EncodesItsRow.ldDTV (x : Nibble) : EncodesItsRow.Statement (.ldDTV x) := by
  refine ⟨by simp only [Instr.ordinal]; decide, ?_⟩
  show (0xF#4 ++ x ++ 0x15#8 : Word) &&& 0xF0FF#16 = 0xF015#16
  ext i hi
  simp only [BitVec.getElem_and, BitVec.getElem_append]
  interval_cases i <;> simp

theorem EncodesItsRow.ldSTV (x : Nibble) : EncodesItsRow.Statement (.ldSTV x) := by
  refine ⟨by simp only [Instr.ordinal]; decide, ?_⟩
  show (0xF#4 ++ x ++ 0x18#8 : Word) &&& 0xF0FF#16 = 0xF018#16
  ext i hi
  simp only [BitVec.getElem_and, BitVec.getElem_append]
  interval_cases i <;> simp

theorem EncodesItsRow.addIV (x : Nibble) : EncodesItsRow.Statement (.addIV x) := by
  refine ⟨by simp only [Instr.ordinal]; decide, ?_⟩
  show (0xF#4 ++ x ++ 0x1E#8 : Word) &&& 0xF0FF#16 = 0xF01E#16
  ext i hi
  simp only [BitVec.getElem_and, BitVec.getElem_append]
  interval_cases i <;> simp

theorem EncodesItsRow.ldFV (x : Nibble) : EncodesItsRow.Statement (.ldFV x) := by
  refine ⟨by simp only [Instr.ordinal]; decide, ?_⟩
  show (0xF#4 ++ x ++ 0x29#8 : Word) &&& 0xF0FF#16 = 0xF029#16
  ext i hi
  simp only [BitVec.getElem_and, BitVec.getElem_append]
  interval_cases i <;> simp

theorem EncodesItsRow.ldBV (x : Nibble) : EncodesItsRow.Statement (.ldBV x) := by
  refine ⟨by simp only [Instr.ordinal]; decide, ?_⟩
  show (0xF#4 ++ x ++ 0x33#8 : Word) &&& 0xF0FF#16 = 0xF033#16
  ext i hi
  simp only [BitVec.getElem_and, BitVec.getElem_append]
  interval_cases i <;> simp

theorem EncodesItsRow.ldMemV (x : Nibble) : EncodesItsRow.Statement (.ldMemV x) := by
  refine ⟨by simp only [Instr.ordinal]; decide, ?_⟩
  show (0xF#4 ++ x ++ 0x55#8 : Word) &&& 0xF0FF#16 = 0xF055#16
  ext i hi
  simp only [BitVec.getElem_and, BitVec.getElem_append]
  interval_cases i <;> simp

theorem EncodesItsRow.ldVMem (x : Nibble) : EncodesItsRow.Statement (.ldVMem x) := by
  refine ⟨by simp only [Instr.ordinal]; decide, ?_⟩
  show (0xF#4 ++ x ++ 0x65#8 : Word) &&& 0xF0FF#16 = 0xF065#16
  ext i hi
  simp only [BitVec.getElem_and, BitVec.getElem_append]
  interval_cases i <;> simp

end Sys2Proof.Laws
end

