-- ==== Sys2Proof/Laws/Step.lean ====
section
/-! SUPPORT. What a step is, by the next host event, and what a cycle is. -/

namespace Sys2Proof.Machine

theorem step_no_event {s : State} (h : s.inputs = []) : step s = cycle s := by
  simp [step, nextEvent, h, hostEvent]

theorem step_event {s : State} {e : HostEvent} {rest : List HostEvent} (h : s.inputs = e :: rest) :
    step s = hostEvent e { s with inputs := rest } := by
  simp [step, nextEvent, h]

/-- Every step is one host event applied to a state that differs at most in the coming events. -/
theorem step_cases (s : State) : ∃ e rest, step s = hostEvent e { s with inputs := rest } ∧
    ((s.inputs = [] ∧ e = .step ∧ rest = []) ∨ s.inputs = e :: rest) := by
  cases h : s.inputs with
  | nil => exact ⟨.step, [], by rw [step_no_event h]; rw [← h]; rfl, .inl ⟨rfl, rfl, rfl⟩⟩
  | cons e rest => exact ⟨e, rest, step_event h, .inr rfl⟩

/-- What STEP does: nothing, a fetch fault, a decode failure, or the instruction's handler. -/
theorem cycle_cases (s : State) :
    (s.status = .faulted ∧ cycle s = .next s) ∨
    (s.status ≠ .faulted ∧ memSize < s.pc.toNat + 2 ∧
      cycle s = .next (s.faulted none { kind := .memoryBounds, address := some (lowestOutside s.pc), value := none })) ∨
    (∃ w, s.status ≠ .faulted ∧ s.pc.toNat + 2 ≤ memSize ∧ s.fetchWord = .ok w ∧ decodeWord w = none ∧
      cycle s = .next (s.faulted (some w) (plainFault .decodeFailure))) ∨
    (∃ w i, s.status ≠ .faulted ∧ s.pc.toNat + 2 ≤ memSize ∧ s.fetchWord = .ok w ∧ decodeWord w = some i ∧
      cycle s = exec i s) := by
  by_cases hf : s.status = .faulted
  · exact .inl ⟨hf, by simp [cycle, hf]⟩
  · right
    rcases s.fetchWord_cases with ⟨h, he⟩ | ⟨h, ho⟩
    · exact .inl ⟨hf, h, by simp [cycle, hf, he]⟩
    · right
      cases hd : decodeWord (wordOfBytes (s.readByte s.pc.toNat) (s.readByte (s.pc.toNat + 1))) with
      | none => exact .inl ⟨_, hf, h, ho, hd, by simp [cycle, hf, ho, hd]⟩
      | some i => exact .inr ⟨_, i, hf, h, ho, hd, by simp [cycle, hf, ho, hd]⟩

/-- RESET with a valid image. -/
theorem resetEvent_valid {image : List Byte} (s : State) (h : imageWellFormed image) :
    resetEvent image s = .next (s.resetWith image) := by
  simp [resetEvent, h]

/-- What RESET with a valid image leaves whatever RESET_FILL. -/
theorem State.resetWith_fixed (s : State) (image : List Byte) :
    (s.resetWith image).pc = 0x200 ∧ (s.resetWith image).status = .ready ∧ (s.resetWith image).fault = none ∧
    (s.resetWith image).config = s.config ∧ (s.resetWith image).inputs = s.inputs ∧ (s.resetWith image).randIn = s.randIn := by
  unfold State.resetWith State.resetRegisters
  cases s.config.resetFill <;> exact ⟨rfl, rfl, rfl, rfl, rfl, rfl⟩

/-- After RESET every stack entry in use is a return address that 10_state.md R26 allows. -/
theorem State.resetWith_stack (s : State) (image : List Byte) (j : Nat) (h : j < 16)
    (hj : j < (s.resetWith image).sp.val) : ((s.resetWith image).stack[j]).toNat ≤ 0xFFE := by
  unfold State.resetWith State.resetRegisters at hj ⊢
  cases hf : s.config.resetFill <;> simp only [hf] at hj ⊢
  · exact absurd hj (Nat.not_lt_zero j)
  · have := (Config.freeReturn s.draws j).isLt
    simp only [arbitraryStack, Vector.getElem_ofFn, if_pos hj, BitVec.toNat_ofNat]
    omega

end Sys2Proof.Machine
end

