-- ==== Sys2Proof/Tests/Slice0.lean ====
section
/-! SUPPORT. Tests: ill-formed terms, written-out words, one-step tests, and a witness for every statement's hypotheses. Expected values are those of 95_test_vectors.md and the rules named there. -/

namespace Sys2Proof.Tests
open Sys2Proof.Machine

/-! ## WellFormed refuses ill-formed terms -/

theorem test_fontBase_too_high : ¬ ({ defaultConfig with fontBase := 0x1B1 } : Config).wellFormed := by decide
theorem test_fontBase_highest : ({ defaultConfig with fontBase := 0x1B0 } : Config).wellFormed := by decide
theorem test_image_too_long : ¬ imageWellFormed (List.replicate 3585 0) := by
  rw [imageWellFormed, List.length_replicate]; decide
theorem test_image_longest : imageWellFormed (List.replicate 3584 0) := by
  rw [imageWellFormed, List.length_replicate]; decide
theorem test_seVV_source_has_no_n : (Instr.seVV 1 2 7).assembled = false := by decide
theorem test_sneVV_source_has_no_n : (Instr.sneVV 1 2 7).assembled = false := by decide

/-! ## One written-out word of every variant (30_encoding.md table E3) -/

theorem test_decode_cls : decodeWord 0x00E0 = some .cls := by decide
theorem test_decode_ret : decodeWord 0x00EE = some .ret := by decide
theorem test_decode_jp : decodeWord 0x1ABC = some (.jp 0xABC) := by decide
theorem test_decode_call : decodeWord 0x2ABC = some (.call 0xABC) := by decide
theorem test_decode_seVK : decodeWord 0x3A12 = some (.seVK 0xA 0x12) := by decide
theorem test_decode_sneVK : decodeWord 0x4A12 = some (.sneVK 0xA 0x12) := by decide
theorem test_decode_seVV : decodeWord 0x5AB7 = some (.seVV 0xA 0xB 0x7) := by decide
theorem test_decode_ldVK : decodeWord 0x6A12 = some (.ldVK 0xA 0x12) := by decide
theorem test_decode_addVK : decodeWord 0x7A12 = some (.addVK 0xA 0x12) := by decide
theorem test_decode_ldVV : decodeWord 0x8AB0 = some (.ldVV 0xA 0xB) := by decide
theorem test_decode_orVV : decodeWord 0x8AB1 = some (.orVV 0xA 0xB) := by decide
theorem test_decode_andVV : decodeWord 0x8AB2 = some (.andVV 0xA 0xB) := by decide
theorem test_decode_xorVV : decodeWord 0x8AB3 = some (.xorVV 0xA 0xB) := by decide
theorem test_decode_addVV : decodeWord 0x8AB4 = some (.addVV 0xA 0xB) := by decide
theorem test_decode_sub : decodeWord 0x8AB5 = some (.sub 0xA 0xB) := by decide
theorem test_decode_shr : decodeWord 0x8AB6 = some (.shr 0xA 0xB) := by decide
theorem test_decode_subn : decodeWord 0x8AB7 = some (.subn 0xA 0xB) := by decide
theorem test_decode_shl : decodeWord 0x8ABE = some (.shl 0xA 0xB) := by decide
theorem test_decode_sneVV : decodeWord 0x9AB1 = some (.sneVV 0xA 0xB 0x1) := by decide
theorem test_decode_ldI : decodeWord 0xAFFF = some (.ldI 0xFFF) := by decide
theorem test_decode_jpV0 : decodeWord 0xB123 = some (.jpV0 0x123) := by decide
theorem test_decode_rnd : decodeWord 0xC30F = some (.rnd 0x3 0x0F) := by decide
theorem test_decode_drw : decodeWord 0xD125 = some (.drw 0x1 0x2 0x5) := by decide
theorem test_decode_skp : decodeWord 0xE19E = some (.skp 0x1) := by decide
theorem test_decode_sknp : decodeWord 0xE1A1 = some (.sknp 0x1) := by decide
theorem test_decode_ldVDT : decodeWord 0xF207 = some (.ldVDT 0x2) := by decide
theorem test_decode_ldVKey : decodeWord 0xF10A = some (.ldVKey 0x1) := by decide
theorem test_decode_ldDTV : decodeWord 0xF115 = some (.ldDTV 0x1) := by decide
theorem test_decode_ldSTV : decodeWord 0xF218 = some (.ldSTV 0x2) := by decide
theorem test_decode_addIV : decodeWord 0xF01E = some (.addIV 0x0) := by decide
theorem test_decode_ldFV : decodeWord 0xF029 = some (.ldFV 0x0) := by decide
theorem test_decode_ldBV : decodeWord 0xF033 = some (.ldBV 0x0) := by decide
theorem test_decode_ldMemV : decodeWord 0xF155 = some (.ldMemV 0x1) := by decide
theorem test_decode_ldVMem : decodeWord 0xF465 = some (.ldVMem 0x4) := by decide

/-- 95_test_vectors.md's INVALID words. -/
theorem test_decode_invalid :
    ([0x0000, 0x01E0, 0x0123, 0x00E1, 0x8AB8, 0x8ABF, 0xE1A2, 0xF1FF, 0xFFFF] : List Word).map decodeWord =
      List.replicate 9 none := by decide

/-- The fields of D125: every field of a word, used or not (30_encoding.md R81). -/
theorem test_fields : fieldsOf 0xD125 = ⟨0xD, 0x1, 0x2, 0x5, 0x25, 0x125⟩ := by decide

/-- Bytes: the high byte at the lower address; one byte is too few. -/
theorem test_decode_bytes : decode [0x1A, 0xBC, 0x77] = .ok (.jp 0xABC, [0x77]) ∧ decode [0x1A] = .error .truncated ∧
    decode [0x80, 0x08] = .error (.noSuchInstruction 0x8008) ∧ decodeTableWord 16 0x1ABC = some (.jp 0xABC) :=
  ⟨rfl, rfl, rfl, rfl⟩

/-! ## One step -/

/-- The state after reset with some registers set. -/
def regs (l : List (Nibble × Byte)) : State := l.foldl (fun s p => s.setV p.1 p.2) State.reset

/-- The state after reset with I set. -/
def index (a : Word) : State := { State.reset with i := a }

/-- What f reads after one step that runs the word w from s; `none` where the step answers no next state. -/
def after {α : Type} (w : Nat) (s : State) (f : State → α) : Option α :=
  match step (s.withFetchWord 16 w) with
  | .next t => some (f t)
  | _ => none

/-- V[x] and VF. -/
def reg (x : Nibble) (t : State) : Byte × Byte := (t.getV x, t.getV 0xF)

/-- The fault's kind, address and value, and the pc and word of the record. -/
def record (t : State) : Status × Option FaultRecord := (t.status, t.fault)

theorem test_cls : after 0x00E0 { State.reset with grid := Vector.replicate 32 0xFF } (fun t => (t.grid, t.redraw, t.pc)) =
    some (Grid.blank, true, 0x202) := by decide
theorem test_ret : after 0x00EE { State.reset with sp := 1, stack := Vector.replicate 16 0x300 } (fun t => (t.pc, t.sp)) =
    some (0x302, 0) := by decide
theorem test_ret_underflow : after 0x00EE State.reset record =
    some (.faulted, some ⟨⟨.stackUnderflow, none, none⟩, 0x200, some 0x00EE⟩) := by decide
theorem test_jp : after 0x1ABC State.reset State.pc = some 0xABC := by decide
theorem test_call : after 0x2300 State.reset (fun t => (t.pc, t.sp, t.stack[0])) = some (0x300, 1, 0x200) := by decide
theorem test_call_overflow : after 0x2300 { State.reset with sp := 16 } record =
    some (.faulted, some ⟨⟨.stackOverflow, none, none⟩, 0x200, some 0x2300⟩) := by decide
theorem test_seVK : after 0x3312 (regs [(3, 0x12)]) State.pc = some 0x204 := by decide
theorem test_seVK_not : after 0x3312 (regs [(3, 0x13)]) State.pc = some 0x202 := by decide
theorem test_sneVK : after 0x4312 (regs [(3, 0x13)]) State.pc = some 0x204 := by decide
theorem test_sneVK_not : after 0x4312 (regs [(3, 0x12)]) State.pc = some 0x202 := by decide
theorem test_seVV : after 0x5340 (regs [(3, 7), (4, 7)]) State.pc = some 0x204 := by decide
theorem test_sneVV : after 0x9345 (regs [(3, 7), (4, 8)]) State.pc = some 0x204 := by decide
theorem test_sneVV_not : after 0x9340 (regs [(3, 7), (4, 7)]) State.pc = some 0x202 := by decide
theorem test_ldVK : after 0x615A State.reset (reg 1) = some (0x5A, 0x00) := by decide
theorem test_addVK : after 0x71FF (regs [(1, 0x01), (0xF, 0x33)]) (reg 1) = some (0x00, 0x33) := by decide
theorem test_ldVV : after 0x8120 (regs [(1, 0x12), (2, 0x34)]) (reg 1) = some (0x34, 0x00) := by decide
theorem test_orVV : after 0x8121 (regs [(1, 0xF0), (2, 0x0F), (0xF, 0x33)]) (reg 1) = some (0xFF, 0x33) := by decide
theorem test_orVV_reset : after 0x8121 { regs [(1, 0xF0), (2, 0x0F), (0xF, 0x33)] with
    config := { defaultConfig with logicVfReset := true } } (reg 1) = some (0xFF, 0x00) := by decide
theorem test_andVV : after 0x8122 (regs [(1, 0xF0), (2, 0x3C)]) (reg 1) = some (0x30, 0x00) := by decide
theorem test_xorVV : after 0x8123 (regs [(1, 0xFF), (2, 0xAA)]) (reg 1) = some (0x55, 0x00) := by decide
theorem test_addVV : after 0x8124 (regs [(1, 0xFE), (2, 0xAB)]) (reg 1) = some (0xA9, 0x01) := by decide
theorem test_addVV_vf : after 0x8F14 (regs [(0xF, 0xFE), (1, 0xAB)]) (reg 0xF) = some (0x01, 0x01) := by decide
theorem test_sub : after 0x8125 (regs [(1, 0xAC), (2, 0xDF)]) (reg 1) = some (0xCD, 0x00) := by decide
theorem test_sub_equal : after 0x8125 (regs [(1, 0x05), (2, 0x05)]) (reg 1) = some (0x00, 0x01) := by decide
theorem test_shr : after 0x8106 (regs [(1, 0xAD)]) (reg 1) = some (0x56, 0x01) := by decide
theorem test_shr_vy : after 0x8126 { regs [(2, 0x81)] with config := { defaultConfig with shiftSrc := .vy } } (reg 1) =
    some (0x40, 0x01) := by decide
theorem test_subn : after 0x8127 (regs [(1, 0xDF), (2, 0xAC)]) (reg 1) = some (0xCD, 0x00) := by decide
theorem test_subn_noBorrow : after 0x8127 (regs [(1, 0x01), (2, 0x10)]) (reg 1) = some (0x0F, 0x01) := by decide
theorem test_shl : after 0x810E (regs [(1, 0xAD)]) (reg 1) = some (0x5A, 0x01) := by decide
theorem test_shl_low : after 0x810E (regs [(1, 0x7F)]) (reg 1) = some (0xFE, 0x00) := by decide
theorem test_ldI : after 0xAFFF State.reset State.i = some 0x0FFF := by decide
theorem test_jpV0 : after 0xBFFF (regs [(0, 0xFF)]) State.pc = some 0x10FE := by decide
theorem test_rnd : after 0xC30F { State.reset with randIn := [0xB7] } (reg 3) = some (0x07, 0x00) := by decide
theorem test_rnd_free : after 0xC300 State.reset (fun t => (t.pc, t.draws)) = some (0x202, 1) := by decide
theorem test_drw_wraps : after 0xD012 { regs [(0, 0x3E), (1, 0x1F)] with i := 0x300, mem := [(0x300, 0xC1), (0x301, 0x80)] }
    (fun t => (t.grid.pixel 31 62, t.grid.pixel 31 63, t.grid.pixel 31 5, t.grid.pixel 0 62, t.grid.pixel 0 63, t.getV 0xF)) =
    some (true, true, true, true, false, 0x00) := by decide
theorem test_drw_collides : after 0xD001
    { State.reset with i := 0x300, mem := [(0x300, 0xC0)], grid := flipPixel Grid.blank 0 0 }
    (fun t => (t.grid.pixel 0 0, t.grid.pixel 0 1, t.getV 0xF, t.redraw)) =
    some (false, true, 0x01, true) := by decide
theorem test_skp : after 0xE19E { regs [(1, 0x05)] with keys := 0x0020 } State.pc = some 0x204 := by decide
theorem test_skp_range : after 0xE19E (regs [(1, 0x10)]) record =
    some (.faulted, some ⟨⟨.operandRange, none, some 0x10⟩, 0x200, some 0xE19E⟩) := by decide
theorem test_sknp : after 0xE1A1 (regs [(1, 0x05)]) State.pc = some 0x204 := by decide
theorem test_ldVDT : after 0xF207 { State.reset with dt := 0x3C } (reg 2) = some (0x3C, 0x00) := by decide
theorem test_ldVKey : after 0xF00A { State.reset with keys := 0x0208, kprev := 0x0008 } (fun t => (reg 0 t, t.kprev)) =
    some ((0x09, 0x00), 0x0208) := by decide
theorem test_ldVKey_held : after 0xF00A { State.reset with keys := 0x0008, kprev := 0x0008 } (fun t => (t.pc, t.status)) =
    some (0x200, .waitKey) := by decide
theorem test_ldDTV : after 0xF115 (regs [(1, 0x3C)]) State.dt = some 0x3C := by decide
theorem test_ldSTV : after 0xF218 (regs [(2, 0x05)]) (fun t => (t.st, t.outputs.tone)) = some (0x05, true) := by decide
theorem test_addIV : after 0xF01E { regs [(0, 0x01)] with i := 0xFFFF } State.i = some 0x0000 := by decide
theorem test_ldFV : after 0xF029 (regs [(0, 0x0F)]) State.i = some 0x04B := by decide
theorem test_ldFV_range : after 0xF029 (regs [(0, 0x10)]) record =
    some (.faulted, some ⟨⟨.operandRange, none, some 0x10⟩, 0x200, some 0xF029⟩) := by decide
theorem test_ldBV : after 0xF033 { regs [(0, 0xAE)] with i := 0xFFD } (fun t => t.readBytes 0xFFC 4) =
    some [0x00, 0x01, 0x07, 0x04] := by decide
theorem test_ldBV_reserved : after 0xF033 (index 0x1FE) record =
    some (.faulted, some ⟨⟨.reservedWrite, some 0x1FE, none⟩, 0x200, some 0xF033⟩) := by decide
theorem test_ldMemV : after 0xF155 { regs [(0, 0x11), (1, 0x22), (2, 0x33)] with i := 0xFFE } (fun t => (t.mem.tail, t.i)) =
    some ([(0x201, 0x55), (0xFFE, 0x11), (0xFFF, 0x22)], 0xFFE) := by decide
theorem test_ldMemV_bounds : after 0xF255 (index 0xFFE) record =
    some (.faulted, some ⟨⟨.memoryBounds, some 0x1000, none⟩, 0x200, some 0xF255⟩) := by decide
theorem test_ldVMem : after 0xF465 State.reset (fun t => t.regsUpTo 5) = some [0xF0, 0x90, 0x90, 0x90, 0xF0, 0x00] := by decide
theorem test_ldVMem_bounds : after 0xF065 (index 0xFFFF) record =
    some (.faulted, some ⟨⟨.memoryBounds, some 0xFFFF, none⟩, 0x200, some 0xF065⟩) := by decide

/-! ## The cycle, host events and reset -/

theorem test_decode_failure : after 0x8008 State.reset (fun t => (record t, t.pc)) =
    some ((.faulted, some ⟨⟨.decodeFailure, none, none⟩, 0x200, some 0x8008⟩), 0x200) := by decide
theorem test_fetch_bounds : ∃ t, cycle { State.reset with pc := 0xFFF } = .next t ∧
    record t = (.faulted, some ⟨⟨.memoryBounds, some 0x1000, none⟩, 0xFFF, none⟩) := ⟨_, rfl, by decide⟩
theorem test_tick : ∃ t, step { State.reset with dt := 3, st := 1, status := .faulted, inputs := [.tick] } = .next t ∧
    (t.dt, t.st, t.outputs.tone) = (2, 0, false) := ⟨_, rfl, by decide⟩
theorem test_tick_zero : (State.reset.tick.dt, State.reset.tick.st) = (0, 0) := by decide
theorem test_reset_image : ∃ t, step { regs [(1, 5)] with status := .faulted, inputs := [.reset [0x6A, 0x05]] } = .next t ∧
    (t.readBytes 0x1FF 4, t.getV 1, t.pc, t.status) = ([0x00, 0x6A, 0x05, 0x00], 0, 0x200, .ready) := ⟨_, rfl, by decide⟩
theorem test_faulted_step_changes_nothing : ∃ t, cycle { State.reset with status := .faulted } = .next t ∧
    t = { State.reset with status := .faulted } := ⟨_, rfl, rfl⟩
theorem test_fault_codes : [Fault.decodeFailure, .stackOverflow, .stackUnderflow, .memoryBounds, .reservedWrite,
    .operandRange].map Fault.code = [1, 2, 3, 4, 5, 6] := by decide

/-! ## Witnesses: for every statement with hypotheses, a state and operands that meet them, clause by clause -/

theorem witness_EncodeOfDecode : decodeWord 0x8AB4 = some (.addVV 0xA 0xB) := by decide

theorem witness_TopNibbleClassesDecodeWhateverTheOtherBits :
    ([0x1FFF, 0x2000, 0x3FFF, 0x4000, 0x5FFF, 0x6000, 0x7FFF, 0x9000, 0xAFFF, 0xB000, 0xCFFF, 0xD000] : List Word).map
      (fun w => w.extractLsb' 12 4) = [0x1, 0x2, 0x3, 0x4, 0x5, 0x6, 0x7, 0x9, 0xA, 0xB, 0xC, 0xD] := by decide

theorem witness_DecoderAgreesWithTheMaskAndMatchRows : ∃ (h0 : 0 < encodingRows.length) (h33 : 33 < encodingRows.length),
    (encodingRows[0]).matches 0x00E0 ∧ (encodingRows[33]).matches 0xFF65 := ⟨by decide, by decide, by decide⟩

/-- The three operations, both values of LOGIC_VF_RESET, and a destination other than VF. -/
theorem witness_LogicOperations :
    ((Instr.orVV 1 2 = .orVV 1 2 ∧ (0x1 : Nibble) = 0x1 ∧ or = or) ∧ (Instr.andVV 1 2 = .andVV 1 2 ∧ (0x2 : Nibble) = 0x2 ∧ and = and) ∧
      Instr.xorVV 1 2 = .xorVV 1 2 ∧ (0x3 : Nibble) = 0x3 ∧ xor = xor) ∧
    State.reset.config.logicVfReset = false ∧ ({ defaultConfig with logicVfReset := true } : Config).logicVfReset = true ∧
    (0xE : Nibble) ≠ 0xF := by
  refine ⟨⟨⟨rfl, rfl, rfl⟩, ⟨rfl, rfl, rfl⟩, rfl, rfl, rfl⟩, rfl, rfl, by decide⟩

/-- Of AddWithCarry, SubtractSetsNotBorrow, ReverseSubtractSetsNotBorrow and the shifts: a destination other than VF, and both shift sources. -/
theorem witness_ArithmeticDestination : (0xE : Nibble) ≠ 0xF ∧ State.reset.config.shiftSrc = .vx ∧
    ({ defaultConfig with shiftSrc := .vy } : Config).shiftSrc = .vy := by decide

theorem witness_ReturnPopsOrUnderflows : 0 < ({ State.reset with sp := 1 } : State).sp.val ∧
    0 < ({ State.reset with sp := 16 } : State).sp.val ∧ State.reset.sp.val = 0 := by decide

theorem witness_CallPushesItsOwnAddress : ({ State.reset with sp := 15 } : State).sp.val < 16 ∧ State.reset.sp.val < 16 ∧
    (14 < 16 ∧ 14 ≠ ({ State.reset with sp := 15 } : State).sp.val) := by decide

theorem witness_CallWithFullStackOverflows : ({ State.reset with sp := 16 } : State).sp.val = 16 := by decide

theorem witness_ReturnAfterCallComesBack : ∃ t, ({ State.reset with sp := 15 } : State).sp.val < 16 ∧
    exec (.call 0x300) { State.reset with sp := 15 } = .next t := ⟨_, by decide, rfl⟩

/-- The largest key number, and a larger one under LOW_NIBBLE. -/
theorem witness_KeySkips : ((regs [(1, 0x0F)]).getV 1).toNat ≤ 0xF ∧
    ({ regs [(1, 0x10)] with config := { defaultConfig with keyIndex := .lowNibble } } : State).config.keyIndex = .lowNibble := by
  decide

theorem witness_NumbersAboveFifteenFault : 0xF < ((regs [(1, 0x10)]).getV 1).toNat ∧
    (regs [(1, 0x10)]).config.keyIndex = .fault ∧ (regs [(1, 0x10)]).config.fontDigit = .fault := by decide

/-- No row at an address outside memory, fifteen rows that end at 0xFFF; a cell met by a set bit and one not met. -/
theorem witness_DrawSprite : ((0 : Nibble) = 0 ∨ (index 0xFFFF).i.toNat + (0 : Nibble).toNat ≤ 0x1000) ∧
    ((0xF : Nibble) = 0 ∨ (index 0xFF1).i.toNat + (0xF : Nibble).toNat ≤ 0x1000) ∧
    spriteCovers 0x3F 0x1F [0xC0] 31 0 ∧ ¬ spriteCovers 0x3F 0x1F [] 31 0 := by
  refine ⟨by decide, by decide, ⟨0, 1, by decide⟩, ?_⟩
  rintro ⟨k, _, hk, _⟩
  exact absurd hk (Nat.not_lt_zero k)

/-- The lowest I that goes beyond memory, for Dxyn with fifteen and one rows, Fx33, Fx55 and Fx65. -/
theorem witness_AccessesBeyondMemoryFault : (0 < (0xF : Nibble).toNat ∧ 0x1000 < (index 0xFF2).i.toNat + (0xF : Nibble).toNat) ∧
    (0 < (1 : Nibble).toNat ∧ 0x1000 < (index 0x1000).i.toNat + (1 : Nibble).toNat) ∧ 0x1000 < (index 0xFFE).i.toNat + 3 ∧
    0x1000 < (index 0xFFF).i.toNat + ((1 : Nibble).toNat + 1) := by decide

theorem witness_DrawTwiceRestoresTheGrid : (List.replicate 15 (0xFF : Byte)).length ≤ 15 ∧ Grid.blank = Grid.blank := by decide

theorem witness_DrawWrapsItsStartCoordinates : (0x3F : Byte).toNat % 64 = (0xFF : Byte).toNat % 64 ∧
    (0x1F : Byte).toNat % 32 = (0xFF : Byte).toNat % 32 := by decide

/-- The highest FONT_BASE with the largest digit, and a larger one under LOW_NIBBLE. -/
theorem witness_LoadGlyphAddress : ({ defaultConfig with fontBase := 0x1B0 } : Config).wellFormed ∧
    ((regs [(1, 0x0F)]).getV 1).toNat ≤ 0xF ∧ ({ defaultConfig with fontDigit := .lowNibble } : Config).fontDigit = .lowNibble := by
  decide

/-- The parameters with RESERVED_WRITE_POLICY = PERFORM. -/
def performing (a : Word) : State := { index a with config := { defaultConfig with reservedWrite := .perform } }

/-- The store at 0xFFD and at 0x200; performed at 0x1FF; beyond memory from 0xFFE; reserved at 0x1FF. -/
theorem witness_DecimalStore : ((index 0xFFD).i.toNat + 2 ≤ 0xFFF ∧ 0x1FF < (index 0xFFD).i.toNat) ∧
    ((index 0x200).i.toNat + 2 ≤ 0xFFF ∧ 0x1FF < (index 0x200).i.toNat) ∧
    ((performing 0x1FF).i.toNat + 2 ≤ 0xFFF ∧ (performing 0x1FF).config.reservedWrite = .perform) ∧
    0xFFF < (index 0xFFE).i.toNat + 2 ∧
    ((index 0x1FF).i.toNat ≤ 0x1FF ∧ (index 0x1FF).config.reservedWrite = .fault) := by decide

theorem witness_BlockStore : ((index 0xFF0).i.toNat + (0xF : Nibble).toNat ≤ 0xFFF ∧ 0x1FF < (index 0xFF0).i.toNat) ∧
    ((performing 0x1FF).i.toNat + (0xF : Nibble).toNat ≤ 0xFFF ∧ (performing 0x1FF).config.reservedWrite = .perform) ∧
    ((0xF : Nibble).toNat ≤ (0xF : Nibble).toNat) ∧
    ((index 0x1FF).i.toNat ≤ 0x1FF ∧ (index 0x1FF).config.reservedWrite = .fault) := by decide

theorem witness_BlockLoad : (index 0xFF0).i.toNat + (0xF : Nibble).toNat ≤ 0xFFF ∧
    (0xE : Nibble).toNat < (0xF : Nibble).toNat ∧ 0xFFF < (index 0xFF1).i.toNat + (0xF : Nibble).toNat := by decide

/-- Four registers stored at 0x300 and loaded back into a state with other registers. -/
theorem witness_BlockStoreThenLoadRoundTrip : ∃ t w, exec (.ldMemV 3) { regs [(0, 0x11), (3, 0x44)] with i := 0x300 } = .next t ∧
    t.status = .ready ∧ exec (.ldVMem 3) { index 0x300 with mem := t.mem } = .next w :=
  ⟨_, _, rfl, rfl, rfl⟩

theorem witness_StoredBytesAreFetched : ∃ t, 1 ≤ (1 : Nibble).toNat ∧
    exec (.ldMemV 1) { regs [(0, 0x11), (1, 0x44)] with i := 0xFFE } = .next t ∧ t.status = .ready :=
  ⟨_, by decide, rfl, rfl⟩

/-- Key 0; key 15 with key 3 held; no newly pressed key. -/
theorem witness_KeyWait : ((0x0001 : Word).getLsbD 0 = true ∧ (0x0000 : Word).getLsbD 0 = false) ∧
    ((0x8008 : Word).getLsbD 15 = true ∧ (0x0008 : Word).getLsbD 15 = false ∧
      ∀ j : Nat, j < 15 → (0x8008 : Word).getLsbD j = true → (0x0008 : Word).getLsbD j = true) ∧
    ∀ k : Nat, k < 16 → (0x8008 : Word).getLsbD k = true → (0x800C : Word).getLsbD k = true := by
  refine ⟨by decide, ⟨by decide, by decide, by decide⟩, by decide⟩

theorem witness_RandomByteIsMasked : ({ State.reset with randIn := [0xB7] } : State).randIn = 0xB7 :: [] ∧
    State.reset.randIn = [] := by decide

/-- A word at the highest address that can be fetched, with no event and with STEP listed. -/
def highest : State := { State.reset with pc := 0xFFE, mem := [(0xFFE, 0x1F), (0xFFF, 0xFE)] }

theorem witness_StepRunsTheDecodedInstruction : highest.status ≠ .faulted ∧ highest.pc.toNat ≤ 0xFFE ∧
    decodeWord (highest.readByte highest.pc.toNat ++ highest.readByte (highest.pc.toNat + 1)) = some (.jp 0xFFE) ∧
    highest.inputs = [] ∧ ({ highest with inputs := [.step] } : State).inputs = .step :: [] := by decide

theorem witness_StepRunsThePlacedWord : 0xFF65 < 65536 ∧ decodeTableWord 16 0xFF65 = some (.ldVMem 0xF) := by decide

theorem witness_FetchReadsTwoBytesOrFaults : highest.pc.toNat ≤ 0xFFE ∧
    0xFFE < ({ State.reset with pc := 0xFFF } : State).pc.toNat ∧ State.reset.status ≠ .faulted := by decide

theorem witness_InvalidWordFaults : State.reset.status ≠ .faulted ∧ State.reset.pc.toNat ≤ 0xFFE ∧
    (0x0000 : Word).toNat = (State.reset.readByte State.reset.pc.toNat).toNat * 256 +
      (State.reset.readByte (State.reset.pc.toNat + 1)).toNat ∧ decodeWord 0x0000 = none := by decide

/-- Both clauses: a cycle that faults, and a cycle of a FAULTED engine. -/
theorem witness_FaultingCycleChangesOnlyStatusAndRecord :
    (∃ t, cycle State.reset = .next t ∧ t.status = .faulted ∧ State.reset.status ≠ .faulted) ∧
    ∃ t, cycle { State.reset with status := .faulted } = .next t ∧ t.status = .faulted :=
  ⟨⟨_, rfl, rfl, by decide⟩, _, rfl, rfl⟩

theorem witness_CompletedCycleSamplesTheKeypad : ∃ t, cycle highest = .next t ∧ t.status ≠ .faulted := ⟨_, rfl, by decide⟩

theorem reset_pcBounded : pcBounded State.reset := ⟨by decide, fun j _ h => absurd h (Nat.not_lt_zero j)⟩

/-- A call one deep from 0xFFE. -/
theorem oneDeep_pcBounded : pcBounded { State.reset with sp := 1, stack := Vector.replicate 16 0xFFE } :=
  ⟨by decide, fun j hj _ => by simp⟩

theorem witness_StepKeepsProgramCounterBounded : pcBounded State.reset ∧ (∃ t, step State.reset = .next t) ∧
    ∃ t, step (State.reset.withFetchWord 16 0xBFFF) = .next t := ⟨reset_pcBounded, ⟨_, rfl⟩, _, rfl⟩

/-- WAIT and a fault, a jump and a call, a computed jump, a return, a skip taken and one not taken. -/
theorem witness_ProgramCounterForms : (pcBounded State.reset ∧ State.reset.pc.toNat ≤ 0xFFE) ∧
    (∃ t, exec (.ldVKey 1) State.reset = .next t ∧ t.status ≠ .ready ∧ t.status = .waitKey) ∧
    (∃ t, exec .ret State.reset = .next t ∧ t.status ≠ .ready) ∧
    (∃ t, exec (.jp 0x300) State.reset = .next t ∧ t.status = .ready) ∧
    (∃ t, exec (.call 0x300) State.reset = .next t ∧ t.status = .ready) ∧
    (∃ t, exec (.jpV0 0xFFF) (regs [(0, 0xFF)]) = .next t ∧ t.status = .ready) ∧
    (∃ t, exec .ret { State.reset with sp := 1, stack := Vector.replicate 16 0xFFE } = .next t ∧ t.status = .ready) ∧
    (∃ t, exec (.seVK 1 0) State.reset = .next t ∧ t.status = .ready ∧ skipTaken (.seVK 1 0) State.reset) ∧
    ∃ t, exec (.sneVK 1 0) State.reset = .next t ∧ t.status = .ready ∧ ¬ skipTaken (.sneVK 1 0) State.reset :=
  ⟨⟨reset_pcBounded, by decide⟩, ⟨_, rfl, by decide, rfl⟩, ⟨_, rfl, by decide⟩, ⟨_, rfl, rfl⟩, ⟨_, rfl, rfl⟩, ⟨_, rfl, rfl⟩, ⟨_, rfl, rfl⟩,
    ⟨_, rfl, rfl, rfl⟩, _, rfl, rfl, fun h => h rfl⟩

/-- Each piece of state, changed by an instruction. -/
theorem witness_OnlyTheListedInstructionsWrite :
    (∃ t, exec (.ldVK 0xF 1) State.reset = .next t ∧ t.getV 0xF ≠ State.reset.getV 0xF) ∧
    (∃ t, exec (.ldMemV 0) { regs [(0, 1)] with i := 0x200 } = .next t ∧ t.readByte 0x200 ≠ (regs [(0, 1)]).readByte 0x200) ∧
    (∃ t, exec (.ldI 1) State.reset = .next t ∧ t.i ≠ State.reset.i) ∧
    (∃ t, exec (.call 1) State.reset = .next t ∧ t.sp ≠ State.reset.sp ∧ t.stack ≠ State.reset.stack) ∧
    (∃ t, exec (.ldDTV 1) (regs [(1, 1)]) = .next t ∧ t.dt ≠ State.reset.dt) ∧
    (∃ t, exec (.ldSTV 1) (regs [(1, 1)]) = .next t ∧ t.st ≠ State.reset.st) ∧
    (∃ t, exec .cls State.reset = .next t ∧ t.redraw ≠ State.reset.redraw) ∧
    ∃ t, exec (.rnd 1 1) State.reset = .next t ∧ t.draws ≠ State.reset.draws :=
  ⟨⟨_, rfl, by decide⟩, ⟨_, rfl, by decide⟩, ⟨_, rfl, by decide⟩, ⟨_, rfl, by decide, by decide⟩, ⟨_, rfl, by decide⟩,
    ⟨_, rfl, by decide⟩, ⟨_, rfl, by decide⟩, _, rfl, by decide⟩

theorem witness_ReservedRegionIsNeverWritten : ∃ t, (index 0x200).config.reservedWrite = .fault ∧
    exec (.ldMemV 0xF) (index 0x200) = .next t ∧ 0x1FF ≤ 0x1FF := ⟨_, rfl, rfl, by decide⟩

theorem witness_HostEventsChangeOnlyTheirState : ({ State.reset with inputs := [.tick] } : State).inputs = .tick :: [] ∧
    ({ State.reset with inputs := [.setKeys 0xFFFF] } : State).inputs = .setKeys 0xFFFF :: [] ∧
    ({ State.reset with inputs := [.frameAck] } : State).inputs = .frameAck :: [] := by decide

/-- The highest FONT_BASE and the longest image; the last font byte, the last image byte, the bytes beside the font; RESET_FILL = ZERO. -/
theorem witness_ResetLoadsFontAndImage : ({ defaultConfig with fontBase := 0x1B0 } : Config).wellFormed ∧
    (List.replicate 3584 (0 : Byte)).length ≤ 3584 ∧ 79 < 80 ∧ 3583 < (List.replicate 3584 (0 : Byte)).length ∧
    ({ State.reset with status := .faulted, inputs := [.reset []] } : State).inputs = .reset [] :: [] ∧
    defaultConfig.resetFill = .zero ∧ (0xFFF < 0x1000 ∧ 0xFFF ≥ 0x1B0 + 80 ∧ 0xFFF ≥ 0x200 + 3583) ∧ (0x1AF < 0x1B0 ∨ 0x1B0 + 80 ≤ 0x1AF) ∧ (0x1AF < 0x200 ∨ 0x200 + 3584 ≤ 0x1AF) := by
  rw [List.length_replicate]
  exact ⟨by decide, by decide, by decide, by decide, by decide, rfl, by decide, by decide, by decide⟩

theorem witness_FirstFetchAfterResetReadsTheImage : ∃ t, resetEvent [0x12, 0x34] State.reset = .next t := ⟨_, rfl⟩

/-- A step from reset, one from a memory that lists bytes, and one that stores. -/
theorem witness_StepKeepsMemoryCanonical : State.reset.config.wellFormed ∧ memoryCanonical State.reset ∧
    (memoryCanonical highest ∧ ∃ t, step highest = .next t) ∧ (∃ t, step State.reset = .next t) ∧
    ∃ t, step ((performing 0x100).withFetchWord 16 0xF355) = .next t :=
  ⟨by decide, by decide, ⟨by decide, _, rfl⟩, ⟨_, rfl⟩, _, rfl⟩

/-- A step that enters FAULTED from an agreeing state, and a RESET that leaves it. -/
theorem witness_StepKeepsFaultRecordAndFaulted : faultRecordAgrees State.reset ∧ (∃ t, step State.reset = .next t) ∧
    ∃ t, step { State.reset with status := .faulted, inputs := [.reset []] } = .next t ∧ t.status ≠ .faulted :=
  ⟨by simp [faultRecordAgrees, State.reset], ⟨_, rfl⟩, _, rfl, by decide⟩

theorem witness_UnusedStackEntriesAreUnobservable :
    SameButUnusedStack State.reset { State.reset with stack := Vector.replicate 16 0xFFFF } ∧
    ∃ t, step State.reset = .next t :=
  ⟨⟨rfl, fun j _ h => absurd h (Nat.not_lt_zero j)⟩, _, rfl⟩

theorem witness_RandAndKprevReachOneInstructionEach : (∃ t, exec .cls State.reset = .next t) ∧
    (∀ x kk, Instr.cls ≠ .rnd x kk) ∧ ∀ x, Instr.cls ≠ .ldVKey x :=
  ⟨⟨_, rfl⟩, fun _ _ => Instr.noConfusion, fun _ => Instr.noConfusion⟩

end Sys2Proof.Tests
end

section
/-! The decoder's equation for each class that the top nibble decides alone (30_encoding.md R86). -/

namespace Sys2Proof

variable {w : Word}

theorem decodeWord_class1 (h : opOf w = 0x1) : decodeWord w = some (.jp (nnnOf w)) := by
  rw [decodeWord, h]; rfl

theorem decodeWord_class2 (h : opOf w = 0x2) : decodeWord w = some (.call (nnnOf w)) := by
  rw [decodeWord, h]; rfl

theorem decodeWord_class3 (h : opOf w = 0x3) : decodeWord w = some (.seVK (xOf w) (kkOf w)) := by
  rw [decodeWord, h]; rfl

theorem decodeWord_class4 (h : opOf w = 0x4) : decodeWord w = some (.sneVK (xOf w) (kkOf w)) := by
  rw [decodeWord, h]; rfl

theorem decodeWord_class5 (h : opOf w = 0x5) : decodeWord w = some (.seVV (xOf w) (yOf w) (nOf w)) := by
  rw [decodeWord, h]; rfl

theorem decodeWord_class6 (h : opOf w = 0x6) : decodeWord w = some (.ldVK (xOf w) (kkOf w)) := by
  rw [decodeWord, h]; rfl

theorem decodeWord_class7 (h : opOf w = 0x7) : decodeWord w = some (.addVK (xOf w) (kkOf w)) := by
  rw [decodeWord, h]; rfl

theorem decodeWord_class9 (h : opOf w = 0x9) : decodeWord w = some (.sneVV (xOf w) (yOf w) (nOf w)) := by
  rw [decodeWord, h]; rfl

theorem decodeWord_classA (h : opOf w = 0xA) : decodeWord w = some (.ldI (nnnOf w)) := by
  rw [decodeWord, h]; rfl

theorem decodeWord_classB (h : opOf w = 0xB) : decodeWord w = some (.jpV0 (nnnOf w)) := by
  rw [decodeWord, h]; rfl

theorem decodeWord_classC (h : opOf w = 0xC) : decodeWord w = some (.rnd (xOf w) (kkOf w)) := by
  rw [decodeWord, h]; rfl

theorem decodeWord_classD (h : opOf w = 0xD) : decodeWord w = some (.drw (xOf w) (yOf w) (nOf w)) := by
  rw [decodeWord, h]; rfl

end Sys2Proof
end

section
/-! The family 30_encoding.md. -/

namespace Sys2Proof.Machine

/-- 5xyn compares V[x] and V[y] and does not read n (30_encoding.md R86). -/
theorem exec_seVV (x y n : Nibble) (s : State) : exec (.seVV x y n) s = execSeVV x y s := rfl

/-- 9xyn compares V[x] and V[y] and does not read n (30_encoding.md R86). -/
theorem exec_sneVV (x y n : Nibble) (s : State) : exec (.sneVV x y n) s = execSneVV x y s := rfl

/-- Settles O3: the decoder's equation for each class; and the handlers of 5xyn and 9xyn do not take n. -/
theorem topNibbleClassesDecodeWhateverTheOtherBits :
    Obligations.TopNibbleClassesDecodeWhateverTheOtherBits := by
  constructor
  · intro w
    exact ⟨decodeWord_class1, decodeWord_class2, decodeWord_class3, decodeWord_class4,
      decodeWord_class5, decodeWord_class6, decodeWord_class7, decodeWord_class9,
      decodeWord_classA, decodeWord_classB, decodeWord_classC, decodeWord_classD⟩
  · intro x y n m s
    exact ⟨by rw [exec_seVV, exec_seVV], by rw [exec_sneVV, exec_sneVV]⟩

end Sys2Proof.Machine
end

section
/-! The family 40_execution_engine.md: the fetch and the two faults the cycle itself raises. -/

namespace Sys2Proof.Machine

variable {s : State}

/-- A fault of a cycle is the entry to FAULTED that `State.faulted` writes (60_exceptions.md R238). -/
theorem tookFault_faulted (s : State) (w : Option Word) (f : FaultInfo) : TookFault s (s.faulted w f) w f := rfl

/-- The high byte of a word stands at the lower address (20_memory.md R66). -/
theorem toNat_wordOfBytes (hi lo : Byte) : (wordOfBytes hi lo).toNat = hi.toNat * 256 + lo.toNat := by
  rw [wordOfBytes, BitVec.toNat_append, ← Nat.shiftLeft_add_eq_or_of_lt lo.isLt, Nat.shiftLeft_eq]

/-- Up to 0xFFE the fetch answers the big-endian word at pc, and nothing but that word. -/
theorem fetchWord_inside (h : s.pc.toNat ≤ 0xFFE) :
    s.fetchWord = .ok (wordOfBytes (s.readByte s.pc.toNat) (s.readByte (s.pc.toNat + 1))) := by
  rcases s.fetchWord_cases with ⟨hout, _⟩ | ⟨_, hw⟩
  · simp only [memSize] at hout
    omega
  · exact hw

/-- Above 0xFFE the fetch raises MEMORY_BOUNDS at the lowest address outside memory. -/
theorem fetchWord_outside (h : 0xFFE < s.pc.toNat) : s.fetchWord = .error (boundsFault (lowestOutside s.pc)) := by
  rcases s.fetchWord_cases with ⟨_, he⟩ | ⟨hin, _⟩
  · exact he
  · simp only [memSize] at hin
    omega

theorem cycle_of_fetch_error {f : FaultInfo} (hs : s.status ≠ .faulted) (hf : s.fetchWord = .error f) :
    cycle s = .next (s.faulted none f) := by
  simp [cycle, hs, hf]

theorem cycle_of_invalid {w : Word} (hs : s.status ≠ .faulted) (hf : s.fetchWord = .ok w) (hw : decodeWord w = none) :
    cycle s = .next (s.faulted (some w) (plainFault .decodeFailure)) := by
  simp [cycle, hs, hf, hw]

/-- Settles O43: the fetch on either side of 0xFFE. -/
theorem fetchReadsTwoBytesOrFaults : Obligations.FetchReadsTwoBytesOrFaults := by
  intro s
  constructor
  · intro hpc
    exact ⟨_, fetchWord_inside hpc, toNat_wordOfBytes _ _⟩
  · intro hpc hs
    exact ⟨_, cycle_of_fetch_error hs (fetchWord_outside hpc), tookFault_faulted _ _ _⟩

/-- Settles O44: the word of the statement is the fetched one, since its value is. -/
theorem invalidWordFaults : Obligations.InvalidWordFaults := by
  intro s w hs hpc hval hinv
  have hw : w = wordOfBytes (s.readByte s.pc.toNat) (s.readByte (s.pc.toNat + 1)) :=
    BitVec.eq_of_toNat_eq (hval.trans (toNat_wordOfBytes _ _).symm)
  have hfetch : s.fetchWord = .ok w := hw ▸ fetchWord_inside hpc
  exact ⟨_, cycle_of_invalid hs hfetch hinv, tookFault_faulted _ _ _⟩

end Sys2Proof.Machine
end

section
/-! The family 40_execution_engine.md: how a handler ends, and the pc it leaves (R104). -/

namespace Sys2Proof.Machine

/-- R104 for a skip and for every instruction that is no jump, call or return. -/
def SkipForm (i : Instr) (s : State) (p : Word) : Prop :=
  (skipTaken i s → p = s.pc + 4) ∧ (¬ skipTaken i s → p = s.pc + 2)

/-- R104's form of the pc after instruction i completes in s, on 16-bit words (log 9). -/
def PcForm (i : Instr) (s : State) (p : Word) : Prop :=
  match i with
  | .jp nnn | .call nnn => p = addrOperand nnn
  | .jpV0 nnn => p = addrOperand nnn + (s.getV 0).setWidth 16
  | .ret => ∃ (j : Nat) (h : j < 16), s.sp.val = j + 1 ∧ p = s.stack[j] + 2
  | _ => SkipForm i s p

/-- The three ends of a handler (R100): it raises a fault in s, it waits in s (Fx0A alone), or it completes with a pc of the form `form`. -/
inductive HandlerEnds (i : Instr) (s : State) (form : Word → Prop) : Result → Prop where
  | raised (f : FaultInfo) : HandlerEnds i s form (raise i f s)
  | waited (x : Nibble) (hi : i = .ldVKey x) : HandlerEnds i s form (wait s)
  | completed (u : State) (hpc : form u.pc) : HandlerEnds i s form (complete u)

/-! ## What the shared operations leave of the pc -/

@[simp] theorem State.writeAlu_pc (s : State) (x : Nibble) (o : AluOut) : (s.writeAlu x o).pc = s.pc := by
  rw [State.writeAlu_eq]

@[simp] theorem State.loadRegs_pc (s : State) (k : Nat) (vals : List Byte) : (s.loadRegs k vals).pc = s.pc := by
  rw [State.loadRegs_eq]

@[simp] theorem State.sampleRand_pc (s : State) : s.sampleRand.2.pc = s.pc := by
  rcases s.sampleRand_cases with ⟨b, rest, _, h⟩ | ⟨_, h⟩ <;> rw [h]

/-! ## How the shared operations end -/

variable {i : Instr} {s u : State}

theorem completeNext_ends (hi : ¬ skipTaken i s) (hpc : u.pc = s.pc) :
    HandlerEnds i s (SkipForm i s) (completeNext u) :=
  .completed u.advance ⟨fun h => absurd h hi, fun _ => by rw [State.advance_pc, hpc]⟩

theorem aluInstr_ends (hi : ¬ skipTaken i s) (fn : AluFn) (x : Nibble) (a b : Byte) :
    HandlerEnds i s (SkipForm i s) (aluInstr fn x a b s) :=
  completeNext_ends hi (State.writeAlu_pc _ _ _)

theorem storeAtI_ends (hi : ¬ skipTaken i s) (bytes : List Byte) :
    HandlerEnds i s (SkipForm i s) (storeAtI i bytes s) := by
  unfold storeAtI
  rcases s.memWrite_cases s.i bytes with ⟨_, _, h⟩ | ⟨_, _, _, _, h⟩ | ⟨_, _, h⟩ <;> rw [h]
  · exact .raised _
  · exact .raised _
  · exact completeNext_ends hi rfl

theorem skipIf_ends {c : Bool} (hc : skipTaken i s ↔ c = true) : HandlerEnds i s (SkipForm i s) (skipIf c s) :=
  .completed _ ⟨fun h => by simp [hc.mp h], fun h => by simp [mt hc.mpr h]⟩

/-- The key is the low nibble of V[x], whether V[x] is a key number or the policy reduces it. -/
theorem skipOnKey_ends {x : Nibble} {pressed : Bool}
    (hc : skipTaken i s ↔ s.keys.getLsbD ((s.getV x).toNat % 16) = pressed) :
    HandlerEnds i s (SkipForm i s) (skipOnKey i x pressed s) := by
  unfold skipOnKey
  rcases numberOperand_cases s.config.keyIndex (s.getV x) with ⟨_, h⟩ | ⟨_, _, h⟩ <;> rw [h]
  · exact skipIf_ends (hc.trans (by simp [keyBit]))
  · exact .raised _

/-! ## How the handlers with more than one end of their own end -/

theorem execRet_ends (s : State) : HandlerEnds .ret s (PcForm .ret s) (execRet s) := by
  unfold execRet
  split
  case isTrue h => exact .completed _ ⟨s.sp.val - 1, by omega, by omega, rfl⟩
  case isFalse => exact .raised _

theorem execCall_ends (nnn : Addr) (s : State) : HandlerEnds (.call nnn) s (PcForm (.call nnn) s) (execCall nnn s) := by
  unfold execCall
  split
  · exact .completed _ rfl
  · exact .raised _

theorem execDrw_ends (x y n : Nibble) (s : State) :
    HandlerEnds (.drw x y n) s (SkipForm (.drw x y n) s) (execDrw x y n s) := by
  unfold execDrw
  rcases s.memRead_cases s.i n.toNat with ⟨_, _, h⟩ | ⟨_, h⟩ <;> rw [h]
  · exact .raised _
  · exact completeNext_ends id rfl

theorem execLdVMem_ends (x : Nibble) (s : State) :
    HandlerEnds (.ldVMem x) s (SkipForm (.ldVMem x) s) (execLdVMem x s) := by
  unfold execLdVMem
  rcases s.memRead_cases s.i (x.toNat + 1) with ⟨_, _, h⟩ | ⟨_, h⟩ <;> rw [h]
  · exact .raised _
  · exact completeNext_ends id (State.loadRegs_pc _ _ _)

theorem execLdFV_ends (x : Nibble) (s : State) :
    HandlerEnds (.ldFV x) s (SkipForm (.ldFV x) s) (execLdFV x s) := by
  unfold execLdFV
  rcases numberOperand_cases s.config.fontDigit (s.getV x) with ⟨_, h⟩ | ⟨_, _, h⟩ <;> rw [h]
  · exact completeNext_ends id rfl
  · exact .raised _

theorem execLdVKey_ends (x : Nibble) (s : State) :
    HandlerEnds (.ldVKey x) s (SkipForm (.ldVKey x) s) (execLdVKey x s) := by
  unfold execLdVKey
  split
  · exact .waited x rfl
  · exact completeNext_ends id rfl

/-- Every handler ends in one of the three ways, with a pc of R104's form when it completes. -/
theorem exec_ends (i : Instr) (s : State) : HandlerEnds i s (PcForm i s) (exec i s) := by
  cases i with
  | jp | jpV0 => exact .completed _ rfl
  | call nnn => exact execCall_ends nnn s
  | ret => exact execRet_ends s
  | seVK | sneVK | seVV | sneVV => exact skipIf_ends (by simp [skipTaken, BitVec.toNat_inj])
  | skp | sknp => exact skipOnKey_ends Iff.rfl
  | addVK | ldVV | orVV | andVV | xorVV | addVV | sub | shr | subn | shl => exact aluInstr_ends id _ _ _ _
  | rnd x kk => exact completeNext_ends id s.sampleRand_pc
  | drw x y n => exact execDrw_ends x y n s
  | ldVKey x => exact execLdVKey_ends x s
  | ldFV x => exact execLdFV_ends x s
  | ldBV | ldMemV => exact storeAtI_ends id _
  | ldVMem x => exact execLdVMem_ends x s
  | cls | ldVK | ldI | ldVDT | ldDTV | ldSTV | addIV => exact completeNext_ends id rfl

/-! ## The forms on natural numbers: within the bounds of 10_state.md R26 no sum wraps -/

theorem toNat_addrOperand (nnn : Addr) : (addrOperand nnn).toNat = nnn.toNat :=
  BitVec.toNat_setWidth_of_le (by decide)

theorem toNat_addrOperand_add_byte (nnn : Addr) (b : Byte) :
    (addrOperand nnn + b.setWidth 16).toNat = nnn.toNat + b.toNat := by
  have hn := nnn.isLt
  have hb := b.isLt
  rw [BitVec.toNat_add, toNat_addrOperand, BitVec.toNat_setWidth_of_le (by decide)]
  omega

theorem toNat_add_of_fetchable {p : Word} (k : Word) (hk : k.toNat ≤ 4) (hp : p.toNat ≤ 0xFFE) :
    (p + k).toNat = p.toNat + k.toNat := by
  rw [BitVec.toNat_add]
  omega

theorem SkipForm.toNat {p : Word} (h : SkipForm i s p) (hp : s.pc.toNat ≤ 0xFFE) :
    (skipTaken i s → p.toNat = s.pc.toNat + 4) ∧ (¬ skipTaken i s → p.toNat = s.pc.toNat + 2) := by
  obtain ⟨htaken, hnot⟩ := h
  constructor
  · intro hc
    rw [htaken hc]
    exact toNat_add_of_fetchable 4 (by decide) hp
  · intro hc
    rw [hnot hc]
    exact toNat_add_of_fetchable 2 (by decide) hp

/-- Settles O47: a fault and WAIT keep the pc, and a completed handler's pc has its form, whose sum does not wrap. -/
theorem programCounterForms : Obligations.ProgramCounterForms := by
  intro i s t hbound hp hexec
  obtain ⟨_, hstack⟩ := hbound
  have hends := exec_ends i s
  rw [hexec] at hends
  cases hends with
  | raised f => exact ⟨fun _ => rfl, nofun, nofun⟩
  | waited x hi => exact ⟨fun _ => rfl, fun _ => ⟨x, hi⟩, nofun⟩
  | completed u hpc =>
    refine ⟨fun h => absurd rfl h, nofun, fun _ => ?_⟩
    cases i with
    | jp nnn | call nnn => exact (congrArg BitVec.toNat hpc).trans (toNat_addrOperand nnn)
    | jpV0 nnn => exact (congrArg BitVec.toNat hpc).trans (toNat_addrOperand_add_byte nnn _)
    | ret =>
      obtain ⟨j, hj, hsp, hret⟩ := hpc
      refine ⟨j, hj, hsp, (congrArg BitVec.toNat hret).trans ?_⟩
      exact toNat_add_of_fetchable 2 (by decide) (hstack j hj (by omega))
    | _ => exact SkipForm.toNat hpc hp

end Sys2Proof.Machine
end

section
/-! The decoder on the words of the jump and the skips on registers and immediates (41_control_flow.md). -/

namespace Sys2Proof

theorem decodeWord_jp (nnn : Addr) : decodeWord (0x1#4 ++ nnn) = some (.jp nnn) := by
  rw [decodeWord_class1 (opOf_nnn 0x1#4 _), nnnOf_nnn]

theorem decodeWord_seVK (x : Nibble) (kk : Byte) : decodeWord (0x3#4 ++ x ++ kk) = some (.seVK x kk) := by
  rw [decodeWord_class3 (opOf_xkk 0x3#4 _ _), xOf_xkk, kkOf_xkk]

theorem decodeWord_sneVK (x : Nibble) (kk : Byte) : decodeWord (0x4#4 ++ x ++ kk) = some (.sneVK x kk) := by
  rw [decodeWord_class4 (opOf_xkk 0x4#4 _ _), xOf_xkk, kkOf_xkk]

theorem decodeWord_seVV (x y n : Nibble) : decodeWord (0x5#4 ++ x ++ y ++ n) = some (.seVV x y n) := by
  rw [decodeWord_class5 (opOf_xyn 0x5#4 _ _ _), xOf_xyn, yOf_xyn, nOf_xyn]

theorem decodeWord_sneVV (x y n : Nibble) : decodeWord (0x9#4 ++ x ++ y ++ n) = some (.sneVV x y n) := by
  rw [decodeWord_class9 (opOf_xyn 0x9#4 _ _ _), xOf_xyn, yOf_xyn, nOf_xyn]

end Sys2Proof
end

section
/-! The family 41_control_flow.md: jump, return, and the skips on registers and immediates. -/

namespace Sys2Proof.Machine

variable {s u : State} {regs : List Nibble} {parts : List Part}

/-! ## The frame of the operations that end a cycle -/

theorem Frame.refl (s : State) (regs : List Nibble) (parts : List Part) : Frame s s regs parts := by
  constructor <;> intros <;> rfl

/-- The pc is in no frame, so a jump keeps every frame. -/
theorem Frame.jump (h : Frame s u regs parts) (target : Word) : Frame s (u.jump target) regs parts := { h with }

/-- kprev and status are in no frame, so NEXT keeps every frame. -/
theorem Frame.completed (h : Frame s u regs parts) : Frame s u.completed regs parts := { h with }

theorem cycleEnds_completed (hkeys : u.keys = s.keys) (hfault : u.fault = s.fault) : CycleEnds s u.completed :=
  ⟨hkeys, rfl, hfault⟩

/-! ## Jump and skip -/

/-- NEXT after a jump alone: the pc is the target, and nothing is outside the empty frame. -/
theorem complete_jump (s : State) (target : Word) :
    ∃ t, complete (s.jump target) = .next t ∧ t.pc = target ∧ CycleEnds s t ∧ Frame s t [] [] :=
  ⟨_, rfl, rfl, cycleEnds_completed rfl rfl, ((Frame.refl s [] []).jump target).completed⟩

/-- A skip on equal bytes (R123, R125). -/
theorem skipIf_beq (a b : Byte) (s : State) :
    ∃ t, skipIf (a == b) s = .next t ∧ t.pc = (if a.toNat = b.toNat then s.pc + 4 else s.pc + 2) ∧
      CycleEnds s t ∧ Frame s t [] [] := by
  have htarget : (if (a == b) = true then s.pc + 4 else s.pc + 2) =
      if a.toNat = b.toNat then s.pc + 4 else s.pc + 2 := by
    simp only [beq_iff_eq, BitVec.toNat_inj]
  exact htarget ▸ complete_jump s _

/-- A skip on bytes that differ (R124, R126). -/
theorem skipIf_bne (a b : Byte) (s : State) :
    ∃ t, skipIf (a != b) s = .next t ∧ t.pc = (if a.toNat = b.toNat then s.pc + 2 else s.pc + 4) ∧
      CycleEnds s t ∧ Frame s t [] [] := by
  have htarget : (if (a != b) = true then s.pc + 4 else s.pc + 2) =
      if a.toNat = b.toNat then s.pc + 2 else s.pc + 4 := by
    simp only [bne_iff_ne, ne_eq, ite_not, BitVec.toNat_inj]
  exact htarget ▸ complete_jump s _

/-! ## Return -/

theorem execRet_of_pos (h : 0 < s.sp.val) :
    execRet s =
      complete ({ s with sp := ⟨s.sp.val - 1, by omega⟩ }.jump (s.stack[s.sp.val - 1]'(by omega) + 2)) :=
  dif_pos h

theorem execRet_of_empty (h : s.sp.val = 0) : execRet s = raise .ret (plainFault .stackUnderflow) s :=
  dif_neg (by omega)

/-- SP is the stack's own piece of state, so writing it keeps every other piece. -/
theorem frame_setSp (s : State) (k : Fin 17) : Frame s { s with sp := k } [] [.stack] :=
  { Frame.refl s [] [.stack] with sp_same := fun h => absurd (List.mem_singleton_self _) h }

/-! ## The statements -/

/-- Settles O16: the return's two branches, on SP > 0 and on SP = 0. -/
theorem returnPopsOrUnderflows : Obligations.ReturnPopsOrUnderflows := by
  refine ⟨by decide, fun s => ⟨fun h => ?pops, fun h => ?underflows⟩⟩
  case pops =>
    exact ⟨_, execRet_of_pos h, rfl, rfl, rfl, cycleEnds_completed rfl rfl,
      ((frame_setSp s _).jump _).completed⟩
  case underflows => exact ⟨_, execRet_of_empty h, tookFault_faulted _ _ _⟩

/-- Settles O15: a jump to the zero-extended address. -/
theorem jumpGoesToTheAddress : Obligations.JumpGoesToTheAddress := by
  intro nnn s
  obtain ⟨t, hexec, hpc, hends, hframe⟩ := complete_jump s (addrOperand nnn)
  exact ⟨decodeWord_jp nnn, t, hexec, by rw [hpc, toNat_addrOperand], hends, hframe⟩

/-- Settles O20: the two skips, on V[x] and kk. -/
theorem skipsOnImmediate : Obligations.SkipsOnImmediate := by
  intro x kk s
  exact ⟨decodeWord_seVK x kk, decodeWord_sneVK x kk, skipIf_beq _ _ s, skipIf_bne _ _ s⟩

/-- Settles O21: the two skips, on V[x] and V[y], for every n since neither handler takes n (R86). -/
theorem skipsOnRegisters : Obligations.SkipsOnRegisters := by
  intro x y n s
  refine ⟨decodeWord_seVV x y n, decodeWord_sneVV x y n, ?_, ?_⟩
  · rw [exec_seVV]
    exact skipIf_beq _ _ s
  · rw [exec_sneVV]
    exact skipIf_bne _ _ s

end Sys2Proof.Machine
end

section
/-! The decoder on the words of the register loads and the arithmetic unit (42_alu_shift.md). -/

namespace Sys2Proof

theorem decodeWord_ldVK (x : Nibble) (kk : Byte) : decodeWord (0x6#4 ++ x ++ kk) = some (.ldVK x kk) := by
  rw [decodeWord_class6 (opOf_xkk 0x6#4 _ _), xOf_xkk, kkOf_xkk]

/-! ## Class 0x8 is decided by the low nibble (30_encoding.md R87) -/

variable {w : Word}

theorem decodeWord_class8 (h : opOf w = 0x8) : decodeWord w = decodeClass8 w := by
  rw [decodeWord, h]; rfl

theorem decodeClass8_ldVV (h : nOf w = 0x0) : decodeClass8 w = some (.ldVV (xOf w) (yOf w)) := by
  rw [decodeClass8, h]; rfl

theorem decodeClass8_addVV (h : nOf w = 0x4) : decodeClass8 w = some (.addVV (xOf w) (yOf w)) := by
  rw [decodeClass8, h]; rfl

theorem decodeClass8_sub (h : nOf w = 0x5) : decodeClass8 w = some (.sub (xOf w) (yOf w)) := by
  rw [decodeClass8, h]; rfl

theorem decodeClass8_shr (h : nOf w = 0x6) : decodeClass8 w = some (.shr (xOf w) (yOf w)) := by
  rw [decodeClass8, h]; rfl

theorem decodeClass8_subn (h : nOf w = 0x7) : decodeClass8 w = some (.subn (xOf w) (yOf w)) := by
  rw [decodeClass8, h]; rfl

theorem decodeClass8_shl (h : nOf w = 0xE) : decodeClass8 w = some (.shl (xOf w) (yOf w)) := by
  rw [decodeClass8, h]; rfl

/-- What the low nibble n of class 0x8 selects, at the word of any two registers. -/
theorem decodeWord_8xyn {form : Nibble → Nibble → Instr} {n : Nibble}
    (h : ∀ {w : Word}, nOf w = n → decodeClass8 w = some (form (xOf w) (yOf w))) (x y : Nibble) :
    decodeWord (0x8#4 ++ x ++ y ++ n) = some (form x y) := by
  rw [decodeWord_class8 (opOf_xyn 0x8#4 _ _ _), h (nOf_xyn _ _ _ _), xOf_xyn, yOf_xyn]

end Sys2Proof
end

section
/-! The family 42_alu_shift.md: register loads, the carry and borrow operations, and the shifts. -/

namespace Sys2Proof.Machine

/-! ## The unit's results and flags on natural numbers (table A1) -/

theorem toNat_addByte (a b : Byte) : (addByte a b).toNat = (a.toNat + b.toNat) % 256 :=
  BitVec.toNat_ofNat _ 8

theorem toNat_subByte (a b : Byte) : (subByte a b).toNat = (a.toNat + 256 - b.toNat) % 256 :=
  BitVec.toNat_ofNat _ 8

theorem toNat_shlByte (a : Byte) : (shlByte a).toNat = a.toNat * 2 % 256 :=
  BitVec.toNat_ofNat _ 8

/-- Half a byte is a byte, so the right shift is not reduced. -/
theorem toNat_shrByte (a : Byte) : (shrByte a).toNat = a.toNat / 2 := by
  have ha := a.isLt
  rw [shrByte, BitVec.toNat_ofNat]
  omega

theorem flagByte_decide (p : Prop) [Decidable p] : flagByte (decide p) = if p then 0x01 else 0x00 := by
  simp only [flagByte, decide_eq_true_eq]

theorem toNat_flagByte (f : Bool) : (flagByte f).toNat = f.toNat := by
  cases f <;> rfl

/-- A flag taken from bit k of a byte, as a digit of the byte's value. -/
theorem toNat_flagByte_getLsbD (a : Byte) (k : Nat) : (flagByte (a.getLsbD k)).toNat = a.toNat / 2 ^ k % 2 :=
  (toNat_flagByte _).trans (Nat.toNat_testBit _ _)

theorem toNat_flagByte_lowBitFlag (a : Byte) : (flagByte (lowBitFlag a)).toNat = a.toNat % 2 := by
  rw [lowBitFlag, toNat_flagByte_getLsbD, Nat.pow_zero, Nat.div_one]

/-- Bit 7 is a byte's highest digit. -/
theorem toNat_flagByte_highBitFlag (a : Byte) : (flagByte (highBitFlag a)).toNat = a.toNat / 128 := by
  have ha := a.isLt
  rw [highBitFlag, toNat_flagByte_getLsbD]
  omega

/-! ## The unit's rows (table A1), and the shift source -/

section
variable (logicVfReset : Bool) (a b : Byte)

theorem alu_mov : alu logicVfReset .mov a b = ⟨b, false, false⟩ := rfl
theorem alu_add : alu logicVfReset .add a b = ⟨addByte a b, carryFlag a b, true⟩ := rfl
theorem alu_sub : alu logicVfReset .sub a b = ⟨subByte a b, noBorrowFlag a b, true⟩ := rfl
theorem alu_shr : alu logicVfReset .shr a b = ⟨shrByte a, lowBitFlag a, true⟩ := rfl
theorem alu_subn : alu logicVfReset .subn a b = ⟨subByte b a, noBorrowFlag b a, true⟩ := rfl
theorem alu_shl : alu logicVfReset .shl a b = ⟨shlByte a, highBitFlag a, true⟩ := rfl
end

variable {s u : State} {x y : Nibble} {regs : List Nibble} {parts : List Part}

theorem State.shiftSource_of_vx (h : s.config.shiftSrc = .vx) : s.shiftSource x y = s.getV x := by
  rw [State.shiftSource, h]

theorem State.shiftSource_of_vy (h : s.config.shiftSrc = .vy) : s.shiftSource x y = s.getV y := by
  rw [State.shiftSource, h]

/-! ## The frame of a register write -/

theorem Frame.setV (h : Frame s u regs parts) (hx : x ∈ regs) (b : Byte) : Frame s (u.setV x b) regs parts :=
  { h with
    regs_same := fun r hr => by
      have hne : r ≠ x := fun e => hr (e ▸ hx)
      rw [State.getV_setV_other u b hne, h.regs_same r hr] }

/-- The pc is in no frame, so going on to p + 2 keeps every frame. -/
theorem Frame.advance (h : Frame s u regs parts) : Frame s u.advance regs parts := { h with }

/-! ## What an instruction that writes a register and goes on to p + 2 does -/

/-- NEXT after V[x] <- b alone. -/
theorem completeNext_setV (s : State) (x : Nibble) (b : Byte) :
    ∃ t, completeNext (s.setV x b) = .next t ∧ t.getV x = b ∧ t.pc = s.pc + 2 ∧ CycleEnds s t ∧ Frame s t [x] [] := by
  have hframe : Frame s (s.setV x b) [x] [] := (Frame.refl s _ _).setV (List.mem_singleton_self x) b
  exact ⟨_, rfl, State.getV_setV_same s x b, rfl, cycleEnds_completed rfl rfl, hframe.advance.completed⟩

variable {fn : AluFn} {a b res : Byte} {flag : Bool}

/-- A row of table A1 with flag_we = 0 writes its result to V[x], and no flag. -/
theorem aluInstr_of_no_flag (x : Nibble) (h : alu s.config.logicVfReset fn a b = ⟨res, flag, false⟩) :
    ∃ t, aluInstr fn x a b s = .next t ∧ t.getV x = res ∧ t.pc = s.pc + 2 ∧ CycleEnds s t ∧ Frame s t [x] [] := by
  rw [aluInstr, h]
  exact completeNext_setV s x res

/-- A row of table A1 with flag_we = 1 writes its result to V[x] and then its flag to VF,
so the flag wins when x = 0xF (10_state.md R22). -/
theorem aluInstr_of_flag (x : Nibble) (h : alu s.config.logicVfReset fn a b = ⟨res, flag, true⟩) :
    ∃ t, aluInstr fn x a b s = .next t ∧ (x ≠ 0xF → t.getV x = res) ∧ t.getV 0xF = flagByte flag ∧
      t.pc = s.pc + 2 ∧ CycleEnds s t ∧ Frame s t [x, 0xF] [] := by
  rw [aluInstr, h]
  have hres : x ≠ 0xF → (s.writeAlu x ⟨res, flag, true⟩).getV x = res := fun hx => by
    rw [State.getV_writeAlu, if_neg fun hf => hx hf.1, if_pos rfl]
  have hflag : (s.writeAlu x ⟨res, flag, true⟩).getV 0xF = flagByte flag := by
    rw [State.getV_writeAlu, if_pos ⟨rfl, rfl⟩]
  have hframe : Frame s (s.writeAlu x ⟨res, flag, true⟩) [x, 0xF] [] :=
    ((Frame.refl s _ _).setV List.mem_cons_self _).setV (List.mem_cons_of_mem _ List.mem_cons_self) _
  exact ⟨_, rfl, hres, hflag, rfl, cycleEnds_completed rfl rfl, hframe.advance.completed⟩

/-! ## The statements -/

/-- Settles O10: the unit's addition, whose flag is the carry. -/
theorem addWithCarry : Obligations.AddWithCarry := by
  intro x y s
  obtain ⟨t, hexec, hres, hflag, hrest⟩ := aluInstr_of_flag x (alu_add s.config.logicVfReset (s.getV x) (s.getV y))
  exact ⟨decodeWord_8xyn decodeClass8_addVV x y, t, hexec, fun hx => by rw [hres hx, toNat_addByte],
    hflag.trans (flagByte_decide _), hrest⟩

/-- Settles O11: the unit's subtraction of V[y] from V[x], whose flag is not-borrow. -/
theorem subtractSetsNotBorrow : Obligations.SubtractSetsNotBorrow := by
  intro x y s
  obtain ⟨t, hexec, hres, hflag, hrest⟩ := aluInstr_of_flag x (alu_sub s.config.logicVfReset (s.getV x) (s.getV y))
  exact ⟨decodeWord_8xyn decodeClass8_sub x y, t, hexec, fun hx => by rw [hres hx, toNat_subByte],
    hflag.trans (flagByte_decide _), hrest⟩

/-- Settles O12: the unit's subtraction of V[x] from V[y], whose flag is not-borrow. -/
theorem reverseSubtractSetsNotBorrow : Obligations.ReverseSubtractSetsNotBorrow := by
  intro x y s
  obtain ⟨t, hexec, hres, hflag, hrest⟩ := aluInstr_of_flag x (alu_subn s.config.logicVfReset (s.getV x) (s.getV y))
  exact ⟨decodeWord_8xyn decodeClass8_subn x y, t, hexec, fun hx => by rw [hres hx, toNat_subByte],
    hflag.trans (flagByte_decide _), hrest⟩

/-- Settles O13: the unit's right shift of the shift source, whose flag is the source's bit 0. -/
theorem shiftRightKeepsTheDroppedBit : Obligations.ShiftRightKeepsTheDroppedBit := by
  intro x y s
  obtain ⟨t, hexec, hres, hflag, hrest⟩ :=
    aluInstr_of_flag x (alu_shr s.config.logicVfReset (s.shiftSource x y) (s.getV y))
  exact ⟨decodeWord_8xyn decodeClass8_shr x y, t, s.shiftSource x y, State.shiftSource_of_vx,
    State.shiftSource_of_vy, hexec, fun hx => by rw [hres hx, toNat_shrByte],
    by rw [hflag, toNat_flagByte_lowBitFlag], hrest⟩

/-- Settles O14: the unit's left shift of the shift source, whose flag is the source's bit 7. -/
theorem shiftLeftKeepsTheDroppedBit : Obligations.ShiftLeftKeepsTheDroppedBit := by
  intro x y s
  obtain ⟨t, hexec, hres, hflag, hrest⟩ :=
    aluInstr_of_flag x (alu_shl s.config.logicVfReset (s.shiftSource x y) (s.getV y))
  exact ⟨decodeWord_8xyn decodeClass8_shl x y, t, s.shiftSource x y, State.shiftSource_of_vx,
    State.shiftSource_of_vy, hexec, fun hx => by rw [hres hx, toNat_shlByte],
    by rw [hflag, toNat_flagByte_highBitFlag], hrest⟩

/-- Settles O7: 6xkk writes V[x] past the unit, 8xy0 through the unit's row without a flag. -/
theorem loadImmediateAndMove : Obligations.LoadImmediateAndMove := by
  intro x y kk s
  exact ⟨decodeWord_ldVK x kk, decodeWord_8xyn decodeClass8_ldVV x y, completeNext_setV s x kk,
    aluInstr_of_no_flag x (alu_mov s.config.logicVfReset (s.getV x) (s.getV y))⟩

end Sys2Proof.Machine
end

section
/-! The family 43_sprite_compositor.md: clear. -/

namespace Sys2Proof.Machine

variable {s u : State} {regs : List Nibble} {parts : List Part}

/-- No pixel of the blank grid is set (R171). -/
@[simp] theorem Grid.pixel_blank (r : Fin 32) (c : Fin 64) : Grid.blank.pixel r c = false := by
  have hrow : Grid.blank[r] = 0#64 := Vector.getElem_replicate r.isLt
  rw [Grid.pixel, hrow, BitVec.getLsbD_zero]

/-- Taking the compositor's grid writes the display alone: the grid and redraw (10_state.md R33). -/
theorem Frame.setDisplay (h : Frame s u regs parts) (hdisplay : Part.display ∈ parts) (g : Grid) :
    Frame s (u.setDisplay g) regs parts :=
  { h with
    grid_same := fun hnot => absurd hdisplay hnot
    redraw_same := fun hnot => absurd hdisplay hnot }

/-- 00E0 takes the grid of the clear function, whatever the grid was. -/
theorem exec_cls (s : State) : exec .cls s = completeNext (s.setDisplay Grid.blank) := rfl

/-- NEXT after a new display alone. -/
theorem completeNext_setDisplay (s : State) (g : Grid) :
    ∃ t, completeNext (s.setDisplay g) = .next t ∧ t.grid = g ∧ t.redraw = true ∧ t.pc = s.pc + 2 ∧
      CycleEnds s t ∧ Frame s t [] [.display] := by
  have hframe : Frame s (s.setDisplay g) [] [.display] :=
    (Frame.refl s _ _).setDisplay (List.mem_singleton_self _) g
  exact ⟨_, rfl, rfl, rfl, rfl, cycleEnds_completed rfl rfl, hframe.advance.completed⟩

/-- Settles O25: NEXT after the blank display, whose frame lists no register, so VF is kept. -/
theorem clearDisplay : Obligations.ClearDisplay := by
  refine ⟨by decide, fun s => ?_⟩
  obtain ⟨t, hexec, hgrid, hrest⟩ := completeNext_setDisplay s Grid.blank
  have hblank : ∀ r c, t.grid.pixel r c = false := fun r c => by rw [hgrid, Grid.pixel_blank]
  exact ⟨t, (exec_cls s).trans hexec, hblank, hrest⟩

end Sys2Proof.Machine
end

section
/-! The decoder on the words of 44_index_memory.md: class 0xA, and class 0xF, which the low byte decides (R89). -/

namespace Sys2Proof

theorem decodeWord_ldI (nnn : Addr) : decodeWord (0xA#4 ++ nnn) = some (.ldI nnn) := by
  rw [decodeWord_classA (opOf_nnn 0xA#4 _), nnnOf_nnn]

variable {w : Word}

theorem decodeWord_classF (h : opOf w = 0xF) : decodeWord w = decodeClassF w := by
  rw [decodeWord, h]; rfl

theorem decodeClassF_ldBV (h : kkOf w = 0x33) : decodeClassF w = some (.ldBV (xOf w)) := by
  rw [decodeClassF, h]; rfl

theorem decodeClassF_ldVMem (h : kkOf w = 0x65) : decodeClassF w = some (.ldVMem (xOf w)) := by
  rw [decodeClassF, h]; rfl

/-- What the low byte kk of class 0xF selects, at the word of any register. -/
theorem decodeWord_Fxkk {form : Nibble → Instr} {kk : Byte}
    (h : ∀ {w : Word}, kkOf w = kk → decodeClassF w = some (form (xOf w))) (x : Nibble) :
    decodeWord (0xF#4 ++ x ++ kk) = some (form x) := by
  rw [decodeWord_classF (opOf_xkk 0xF#4 _ _), h (kkOf_xkk _ _ _), xOf_xkk]

end Sys2Proof
end

section
/-! The family 44_index_memory.md: the load of I, the store at I, the decimal store, and the block load. -/

namespace Sys2Proof.Machine

variable {s u : State} {regs : List Nibble} {parts : List Part}

/-! ## The frame of writing I, memory, and a block of registers -/

theorem Frame.setI (h : Frame s u regs parts) (hindex : Part.index ∈ parts) (a : Word) :
    Frame s (u.setI a) regs parts :=
  { h with index_same := fun hnot => absurd hindex hnot }

theorem Frame.storeBytes (h : Frame s u regs parts) (hmemory : Part.memory ∈ parts) (a : Nat) (bytes : List Byte) :
    Frame s (u.storeBytes a bytes) regs parts :=
  { h with memory_same := fun hnot => absurd hmemory hnot }

/-- Loading registers k, k+1, ... keeps every frame that lists them. -/
theorem Frame.loadRegs {k : Nat} {vals : List Byte} (h : Frame s u regs parts)
    (hregs : ∀ j, k ≤ j → j < k + vals.length → BitVec.ofNat 4 j ∈ regs) :
    Frame s (u.loadRegs k vals) regs parts := by
  induction vals generalizing u k with
  | nil => exact h
  | cons b rest ih =>
    rw [List.length_cons] at hregs
    have hhead : Frame s (u.setV (BitVec.ofNat 4 k) b) regs parts :=
      h.setV (hregs k (Nat.le_refl k) (by omega)) b
    exact ih hhead fun j hlo hhi => hregs j (by omega) (by omega)

/-! ## The load of I -/

/-- NEXT after I <- a alone. -/
theorem completeNext_setI (s : State) (a : Word) :
    ∃ t, completeNext (s.setI a) = .next t ∧ t.i = a ∧ t.pc = s.pc + 2 ∧ CycleEnds s t ∧ Frame s t [] [.index] := by
  have hframe : Frame s (s.setI a) [] [.index] := (Frame.refl s _ _).setI (List.mem_singleton_self _) a
  exact ⟨_, rfl, rfl, rfl, cycleEnds_completed rfl rfl, hframe.advance.completed⟩

/-! ## The store at I: its three ends, each with its condition (20_memory.md R65) -/

section
variable {bytes : List Byte}

/-- A store inside memory that the reserved-write check lets pass writes the bytes at I, I+1, ..., and nothing else. -/
theorem storeAtI_stores (i : Instr) (hin : s.i.toNat + bytes.length ≤ memSize)
    (hallowed : reservedEnd ≤ s.i.toNat ∨ s.config.reservedWrite = .perform) :
    ∃ t, storeAtI i bytes s = .next t ∧ (∀ j < bytes.length, t.readByte (s.i.toNat + j) = bytes.getD j 0) ∧
      SameMemoryOutside s t s.i.toNat bytes.length ∧ t.pc = s.pc + 2 ∧ CycleEnds s t ∧ Frame s t [] [.memory] := by
  rcases s.memWrite_cases s.i bytes with ⟨_, hout, _⟩ | ⟨hpolicy, _, _, hres, _⟩ | ⟨_, _, hok⟩
  · omega
  · rcases hallowed with hhigh | hperform
    · omega
    · exact nomatch hpolicy.symm.trans hperform
  · have hstored : ∀ j < bytes.length,
        (s.storeBytes s.i.toNat bytes).readByte (s.i.toNat + j) = bytes.getD j 0 := fun j hj => by
      rw [State.readByte_storeBytes, if_pos (by omega), Nat.add_sub_cancel_left]
    have hkept : SameMemoryOutside s (s.storeBytes s.i.toNat bytes) s.i.toNat bytes.length := fun a ha => by
      rw [State.readByte_storeBytes, if_neg (by omega)]
    have hframe : Frame s (s.storeBytes s.i.toNat bytes) [] [.memory] :=
      (Frame.refl s _ _).storeBytes (List.mem_singleton_self _) _ _
    rw [storeAtI, hok]
    exact ⟨_, rfl, hstored, hkept, rfl, cycleEnds_completed rfl rfl, hframe.advance.completed⟩

/-- A store that reaches beyond memory raises MEMORY_BOUNDS, whatever the reserved-write policy. -/
theorem storeAtI_outside (i : Instr) (hpos : 0 < bytes.length) (hout : memSize < s.i.toNat + bytes.length) :
    ∃ t, storeAtI i bytes s = .next t ∧ TookFault s t (some (encode i)) (boundsFault (lowestOutside s.i)) := by
  rcases s.memWrite_cases s.i bytes with ⟨_, _, he⟩ | ⟨_, _, hin, _⟩ | ⟨hin, _⟩
  · rw [storeAtI, he]
    exact ⟨_, rfl, tookFault_faulted _ _ _⟩
  · omega
  · omega

/-- A store of some bytes inside memory that starts below 0x200 raises RESERVED_WRITE under FAULT. -/
theorem storeAtI_reserved (i : Instr) (hpos : 0 < bytes.length) (hin : s.i.toNat + bytes.length ≤ memSize)
    (hlow : s.i.toNat < reservedEnd) (hpolicy : s.config.reservedWrite = .fault) :
    ∃ t, storeAtI i bytes s = .next t ∧
      TookFault s t (some (encode i)) { kind := .reservedWrite, address := some s.i, value := none } := by
  rcases s.memWrite_cases s.i bytes with ⟨_, hout, _⟩ | ⟨_, _, _, _, he⟩ | ⟨_, hallowed, _⟩
  · omega
  · rw [storeAtI, he]
    exact ⟨_, rfl, tookFault_faulted _ _ _⟩
  · rcases hallowed with hperform | hnone | hhigh
    · exact nomatch hpolicy.symm.trans hperform
    · omega
    · omega

end

/-! ## The decimal store -/

/-- A byte has at most three decimal digits, so none of them is reduced. -/
theorem map_toNat_decimalDigits (b : Byte) :
    (decimalDigits b).map BitVec.toNat = [b.toNat / 100, b.toNat / 10 % 10, b.toNat % 10] := by
  have hb := b.isLt
  simp only [decimalDigits, List.map_cons, List.map_nil, BitVec.toNat_ofNat, List.cons.injEq, and_true]
  omega

/-- The value of digit j: hundreds, tens, ones. -/
theorem toNat_getD_decimalDigits (b : Byte) (j : Nat) :
    ((decimalDigits b).getD j 0).toNat = [b.toNat / 100, b.toNat / 10 % 10, b.toNat % 10].getD j 0 := by
  rw [← map_toNat_decimalDigits]
  exact (List.getD_map _ 0 BitVec.toNat).symm

theorem exec_ldBV (x : Nibble) (s : State) :
    exec (.ldBV x) s = storeAtI (.ldBV x) (decimalDigits (s.getV x)) s := rfl

/-! ## The block load: its two ends -/

@[simp] theorem State.loadRegs_fault (s : State) (k : Nat) (vals : List Byte) :
    (s.loadRegs k vals).fault = s.fault := by
  rw [State.loadRegs_eq]

theorem execLdVMem_inside {x : Nibble} (h : s.i.toNat + x.toNat ≤ 0xFFF) :
    execLdVMem x s = completeNext (s.loadRegs 0 (s.readBytes s.i.toNat (x.toNat + 1))) := by
  rcases s.memRead_cases s.i (x.toNat + 1) with ⟨_, hout, _⟩ | ⟨_, hok⟩
  · simp only [memSize] at hout
    omega
  · rw [execLdVMem, hok]

theorem execLdVMem_outside {x : Nibble} (h : 0xFFF < s.i.toNat + x.toNat) :
    execLdVMem x s = raise (.ldVMem x) (boundsFault (lowestOutside s.i)) s := by
  rcases s.memRead_cases s.i (x.toNat + 1) with ⟨_, _, he⟩ | ⟨hin, _⟩
  · rw [execLdVMem, he]; rfl
  · simp only [memSize] at hin
    omega

/-- Register r after V0..Vx were loaded from I on. -/
theorem getV_loadRegs_readBytes (s : State) (a : Nat) (x r : Nibble) :
    (s.loadRegs 0 (s.readBytes a (x.toNat + 1))).getV r =
      if r.toNat ≤ x.toNat then s.readByte (a + r.toNat) else s.getV r := by
  have hx := x.isLt
  rw [State.getV_loadRegs _ _ _ _ (by rw [State.length_readBytes]; omega), State.length_readBytes]
  by_cases hr : r.toNat ≤ x.toNat
  · rw [if_pos (by omega), if_pos hr, Nat.sub_zero, State.getD_readBytes _ _ _ _ (by omega)]
  · rw [if_neg (by omega), if_neg hr]

/-- Loading V0..Vx writes those registers, and no other piece of state. -/
theorem frame_loadRegs_readBytes (s : State) (a : Nat) (x : Nibble) :
    Frame s (s.loadRegs 0 (s.readBytes a (x.toNat + 1))) ((List.range (x.toNat + 1)).map (BitVec.ofNat 4)) [] :=
  (Frame.refl s _ _).loadRegs fun j _ hj =>
    List.mem_map_of_mem (List.mem_range.mpr (by rw [State.length_readBytes] at hj; omega))

/-! ## The statements -/

/-- Settles O33: the store at I of the three digits, on either side of the two checks. -/
theorem decimalStore : Obligations.DecimalStore := by
  intro x s
  have hlen : (decimalDigits (s.getV x)).length = 3 := rfl
  refine ⟨decodeWord_Fxkk decodeClassF_ldBV x, fun hin hallowed => ?stores, fun hout => ?outside,
    fun hlow hpolicy => ?reserved⟩
  case stores =>
    obtain ⟨t, hexec, hbytes, hkept, hrest⟩ :=
      storeAtI_stores (bytes := decimalDigits (s.getV x)) (.ldBV x) (by simp only [hlen, memSize]; omega) hallowed
    have hdigit : ∀ j < 3, (t.readByte (s.i.toNat + j)).toNat =
        [(s.getV x).toNat / 100, (s.getV x).toNat / 10 % 10, (s.getV x).toNat % 10].getD j 0 := fun j hj => by
      rw [hbytes j hj, toNat_getD_decimalDigits]
    exact ⟨t, (exec_ldBV x s).trans hexec, hdigit 0 (by decide), hdigit 1 (by decide), hdigit 2 (by decide),
      hkept, hrest⟩
  case outside =>
    exact storeAtI_outside (.ldBV x) (Nat.succ_pos _) (by simp only [hlen, memSize]; omega)
  case reserved =>
    exact storeAtI_reserved (.ldBV x) (Nat.succ_pos _) (by simp only [hlen, memSize]; omega)
      (by simp only [reservedEnd]; omega) hpolicy

/-- Settles O35: the block load on either side of the end of memory. -/
theorem blockLoad : Obligations.BlockLoad := by
  intro x s
  refine ⟨decodeWord_Fxkk decodeClassF_ldVMem x, fun hin => ?loads, fun hout => ?outside⟩
  case loads =>
    have hframe := frame_loadRegs_readBytes s s.i.toNat x
    have hloaded := getV_loadRegs_readBytes s s.i.toNat x
    exact ⟨_, execLdVMem_inside hin, fun r hr => (hloaded r).trans (if_pos hr),
      fun r hr => (hloaded r).trans (if_neg (Nat.not_le.mpr hr)), congrArg (· + 2) (State.loadRegs_pc _ _ _),
      cycleEnds_completed hframe.keys_same (State.loadRegs_fault _ _ _), hframe.advance.completed⟩
  case outside => exact ⟨_, execLdVMem_outside hout, tookFault_faulted _ _ _⟩

/-- Settles O30: I takes the zero-extended address, and no other piece of state is written. -/
theorem loadIndex : Obligations.LoadIndex := by
  intro nnn s
  obtain ⟨t, hexec, hi, hrest⟩ := completeNext_setI s (addrOperand nnn)
  exact ⟨decodeWord_ldI nnn, t, hexec, by rw [hi, toNat_addrOperand], hrest⟩

end Sys2Proof.Machine
end

section
/-! The decoder on the words of the timer instructions (45_timers_keys_random.md): class 0xF, by the low byte (R89). -/

namespace Sys2Proof

variable {w : Word}

theorem decodeClassF_ldVDT (h : kkOf w = 0x07) : decodeClassF w = some (.ldVDT (xOf w)) := by
  rw [decodeClassF, h]; rfl

theorem decodeClassF_ldDTV (h : kkOf w = 0x15) : decodeClassF w = some (.ldDTV (xOf w)) := by
  rw [decodeClassF, h]; rfl

theorem decodeClassF_ldSTV (h : kkOf w = 0x18) : decodeClassF w = some (.ldSTV (xOf w)) := by
  rw [decodeClassF, h]; rfl

end Sys2Proof
end

section
/-! The family 45_timers_keys_random.md: the timer instructions. -/

namespace Sys2Proof.Machine

variable {s u : State} {regs : List Nibble} {parts : List Part}

/-! ## The frame of writing a timer -/

theorem Frame.setDT (h : Frame s u regs parts) (hdelay : Part.delayTimer ∈ parts) (b : Byte) :
    Frame s (u.setDT b) regs parts :=
  { h with dt_same := fun hnot => absurd hdelay hnot }

theorem Frame.setST (h : Frame s u regs parts) (hsound : Part.soundTimer ∈ parts) (b : Byte) :
    Frame s (u.setST b) regs parts :=
  { h with st_same := fun hnot => absurd hsound hnot }

/-! ## What an instruction that writes a timer and goes on to p + 2 does -/

/-- NEXT after DT <- b alone. -/
theorem completeNext_setDT (s : State) (b : Byte) :
    ∃ t, completeNext (s.setDT b) = .next t ∧ t.dt = b ∧ t.pc = s.pc + 2 ∧ CycleEnds s t ∧
      Frame s t [] [.delayTimer] := by
  have hframe : Frame s (s.setDT b) [] [.delayTimer] := (Frame.refl s _ _).setDT (List.mem_singleton_self _) b
  exact ⟨_, rfl, rfl, rfl, cycleEnds_completed rfl rfl, hframe.advance.completed⟩

/-- NEXT after ST <- b alone. -/
theorem completeNext_setST (s : State) (b : Byte) :
    ∃ t, completeNext (s.setST b) = .next t ∧ t.st = b ∧ t.pc = s.pc + 2 ∧ CycleEnds s t ∧
      Frame s t [] [.soundTimer] := by
  have hframe : Frame s (s.setST b) [] [.soundTimer] := (Frame.refl s _ _).setST (List.mem_singleton_self _) b
  exact ⟨_, rfl, rfl, rfl, cycleEnds_completed rfl rfl, hframe.advance.completed⟩

theorem exec_ldVDT (x : Nibble) (s : State) : exec (.ldVDT x) s = completeNext (s.setV x s.dt) := rfl

theorem exec_ldDTV (x : Nibble) (s : State) : exec (.ldDTV x) s = completeNext (s.setDT (s.getV x)) := rfl

theorem exec_ldSTV (x : Nibble) (s : State) : exec (.ldSTV x) s = completeNext (s.setST (s.getV x)) := rfl

/-- In every state the tone sounds exactly while ST is not 0 (10_state.md R29). -/
theorem outputs_tone_iff (s : State) : s.outputs.tone = true ↔ s.st ≠ 0 := bne_iff_ne

/-! ## The statements -/

/-- Settles O38: NEXT after the one write of V[x], DT or ST; the tone follows the ST just written. -/
theorem timerInstructions : Obligations.TimerInstructions := by
  intro x s
  refine ⟨decodeWord_Fxkk decodeClassF_ldVDT x, decodeWord_Fxkk decodeClassF_ldDTV x,
    decodeWord_Fxkk decodeClassF_ldSTV x, ?readDelay, ?setDelay, ?setSound⟩
  case readDelay =>
    rw [exec_ldVDT]
    exact completeNext_setV s x s.dt
  case setDelay =>
    rw [exec_ldDTV]
    exact completeNext_setDT s (s.getV x)
  case setSound =>
    obtain ⟨t, hexec, hst, hrest⟩ := completeNext_setST s (s.getV x)
    have htone : t.outputs.tone = true ↔ s.getV x ≠ 0 := hst ▸ outputs_tone_iff t
    exact ⟨t, (exec_ldSTV x s).trans hexec, hst, htone, hrest⟩

end Sys2Proof.Machine
end

section
/-! The family 60_exceptions.md: the overflow of the return stack. -/

namespace Sys2Proof.Machine

variable {s : State}

/-- CALL pushes exactly while an entry is free (R122), so with SP = 16 it takes the fault of R232. -/
theorem execCall_of_full (nnn : Addr) (h : s.sp.val = 16) :
    execCall nnn s = raise (.call nnn) (plainFault .stackOverflow) s :=
  dif_neg (by omega)

/-- A fault an instruction raises is an entry to FAULTED with the instruction's own encoding as the record's word (R238). -/
theorem raise_tookFault (i : Instr) (f : FaultInfo) (s : State) :
    ∃ t, raise i f s = .next t ∧ TookFault s t (some (encode i)) f :=
  ⟨_, rfl, tookFault_faulted s _ f⟩

/-- Settles O18: a full stack leaves CALL only its fault, and the word recorded is 2nnn, the encoding of CALL. -/
theorem callWithFullStackOverflows : Obligations.CallWithFullStackOverflows := by
  intro nnn s hfull
  obtain ⟨t, hraise, htook⟩ := raise_tookFault (.call nnn) (plainFault .stackOverflow) s
  have hexec : exec (.call nnn) s = .next t := (execCall_of_full nnn hfull).trans hraise
  exact ⟨t, hexec, htook⟩

end Sys2Proof.Machine
end

section
/-! The decoder on the words of the remaining instructions: every row of 30_encoding.md table E3 has its equation. -/

namespace Sys2Proof

theorem decodeWord_call (nnn : Addr) : decodeWord (0x2#4 ++ nnn) = some (.call nnn) := by
  rw [decodeWord_class2 (opOf_nnn 0x2#4 _), nnnOf_nnn]

theorem decodeWord_addVK (x : Nibble) (kk : Byte) : decodeWord (0x7#4 ++ x ++ kk) = some (.addVK x kk) := by
  rw [decodeWord_class7 (opOf_xkk 0x7#4 _ _), xOf_xkk, kkOf_xkk]

theorem decodeWord_jpV0 (nnn : Addr) : decodeWord (0xB#4 ++ nnn) = some (.jpV0 nnn) := by
  rw [decodeWord_classB (opOf_nnn 0xB#4 _), nnnOf_nnn]

theorem decodeWord_rnd (x : Nibble) (kk : Byte) : decodeWord (0xC#4 ++ x ++ kk) = some (.rnd x kk) := by
  rw [decodeWord_classC (opOf_xkk 0xC#4 _ _), xOf_xkk, kkOf_xkk]

theorem decodeWord_drw (x y n : Nibble) : decodeWord (0xD#4 ++ x ++ y ++ n) = some (.drw x y n) := by
  rw [decodeWord_classD (opOf_xyn 0xD#4 _ _ _), xOf_xyn, yOf_xyn, nOf_xyn]

variable {w : Word}

theorem decodeWord_class0 (h : opOf w = 0x0) : decodeWord w = decodeClass0 w := by
  rw [decodeWord, h]; rfl

theorem decodeWord_classE (h : opOf w = 0xE) : decodeWord w = decodeClassE w := by
  rw [decodeWord, h]; rfl

theorem decodeClass8_orVV (h : nOf w = 0x1) : decodeClass8 w = some (.orVV (xOf w) (yOf w)) := by
  rw [decodeClass8, h]; rfl

theorem decodeClass8_andVV (h : nOf w = 0x2) : decodeClass8 w = some (.andVV (xOf w) (yOf w)) := by
  rw [decodeClass8, h]; rfl

theorem decodeClass8_xorVV (h : nOf w = 0x3) : decodeClass8 w = some (.xorVV (xOf w) (yOf w)) := by
  rw [decodeClass8, h]; rfl

theorem decodeClassE_skp (h : kkOf w = 0x9E) : decodeClassE w = some (.skp (xOf w)) := by
  rw [decodeClassE, h]; rfl

theorem decodeClassE_sknp (h : kkOf w = 0xA1) : decodeClassE w = some (.sknp (xOf w)) := by
  rw [decodeClassE, h]; rfl

theorem decodeClassF_ldVKey (h : kkOf w = 0x0A) : decodeClassF w = some (.ldVKey (xOf w)) := by
  rw [decodeClassF, h]; rfl

theorem decodeClassF_addIV (h : kkOf w = 0x1E) : decodeClassF w = some (.addIV (xOf w)) := by
  rw [decodeClassF, h]; rfl

theorem decodeClassF_ldFV (h : kkOf w = 0x29) : decodeClassF w = some (.ldFV (xOf w)) := by
  rw [decodeClassF, h]; rfl

theorem decodeClassF_ldMemV (h : kkOf w = 0x55) : decodeClassF w = some (.ldMemV (xOf w)) := by
  rw [decodeClassF, h]; rfl

/-- What the low byte kk of class 0xE selects, at the word of any register. -/
theorem decodeWord_Exkk {form : Nibble → Instr} {kk : Byte}
    (h : ∀ {w : Word}, kkOf w = kk → decodeClassE w = some (form (xOf w))) (x : Nibble) :
    decodeWord (0xE#4 ++ x ++ kk) = some (form x) := by
  rw [decodeWord_classE (opOf_xkk 0xE#4 _ _), h (kkOf_xkk _ _ _), xOf_xkk]

end Sys2Proof
end

section
/-! The decoder and the encoder are inverse to each other (30_encoding.md sections 2 and 3, decision D3). -/

namespace Sys2Proof

/-! ## Decoding what was encoded -/

theorem decodeWord_encode (i : Instr) : decodeWord (encode i) = some i := by
  cases i with
  | cls | ret => decide
  | jp nnn => exact decodeWord_jp nnn
  | call nnn => exact decodeWord_call nnn
  | seVK x kk => exact decodeWord_seVK x kk
  | sneVK x kk => exact decodeWord_sneVK x kk
  | seVV x y n => exact decodeWord_seVV x y n
  | ldVK x kk => exact decodeWord_ldVK x kk
  | addVK x kk => exact decodeWord_addVK x kk
  | ldVV x y => exact decodeWord_8xyn decodeClass8_ldVV x y
  | orVV x y => exact decodeWord_8xyn decodeClass8_orVV x y
  | andVV x y => exact decodeWord_8xyn decodeClass8_andVV x y
  | xorVV x y => exact decodeWord_8xyn decodeClass8_xorVV x y
  | addVV x y => exact decodeWord_8xyn decodeClass8_addVV x y
  | sub x y => exact decodeWord_8xyn decodeClass8_sub x y
  | shr x y => exact decodeWord_8xyn decodeClass8_shr x y
  | subn x y => exact decodeWord_8xyn decodeClass8_subn x y
  | shl x y => exact decodeWord_8xyn decodeClass8_shl x y
  | sneVV x y n => exact decodeWord_sneVV x y n
  | ldI nnn => exact decodeWord_ldI nnn
  | jpV0 nnn => exact decodeWord_jpV0 nnn
  | rnd x kk => exact decodeWord_rnd x kk
  | drw x y n => exact decodeWord_drw x y n
  | skp x => exact decodeWord_Exkk decodeClassE_skp x
  | sknp x => exact decodeWord_Exkk decodeClassE_sknp x
  | ldVDT x => exact decodeWord_Fxkk decodeClassF_ldVDT x
  | ldVKey x => exact decodeWord_Fxkk decodeClassF_ldVKey x
  | ldDTV x => exact decodeWord_Fxkk decodeClassF_ldDTV x
  | ldSTV x => exact decodeWord_Fxkk decodeClassF_ldSTV x
  | addIV x => exact decodeWord_Fxkk decodeClassF_addIV x
  | ldFV x => exact decodeWord_Fxkk decodeClassF_ldFV x
  | ldBV x => exact decodeWord_Fxkk decodeClassF_ldBV x
  | ldMemV x => exact decodeWord_Fxkk decodeClassF_ldMemV x
  | ldVMem x => exact decodeWord_Fxkk decodeClassF_ldVMem x

/-- Decoding of bytes is decoding of the word that the first two form. -/
theorem decode_cons_cons {hi lo : Byte} {i : Instr} (rest : List Byte)
    (h : decodeWord (wordOfBytes hi lo) = some i) : decode (hi :: lo :: rest) = .ok (i, rest) := by
  simp only [decode, h]

/-- Settles O1: the decoder's equation at each instruction's word; the two bytes of a word form it again. -/
theorem decodeOfEncode : Obligations.DecodeOfEncode := by
  intro i rest
  refine ⟨decodeWord_encode i, decode_cons_cons rest ?_⟩
  rw [wordOfBytes_hi_lo, decodeWord_encode]

/-! ## Encoding what was decoded -/

variable {w : Word} {i : Instr}

/-- A word of a known class and low byte is put together from them and its field x. -/
theorem word_eq_of_op_kk {o : Nibble} {kk : Byte} (ho : opOf w = o) (hk : kkOf w = kk) : o ++ xOf w ++ kk = w := by
  rw [← ho, ← hk, word_eq_xkk]

/-- A word of a known class and low nibble is put together from them and its fields x and y. -/
theorem word_eq_of_op_n {o n : Nibble} (ho : opOf w = o) (hn : nOf w = n) : o ++ xOf w ++ yOf w ++ n = w := by
  rw [← ho, ← hn, word_eq_xyn]

/-- A word of a known class is put together from it and its field nnn. -/
theorem word_eq_of_op {o : Nibble} (ho : opOf w = o) : o ++ nnnOf w = w := by
  rw [← ho, word_eq_nnn]

theorem encode_of_decodeClass0 (h : decodeClass0 w = some i) : encode i = w := by
  unfold decodeClass0 at h
  split at h
  next hw => cases h; exact hw.symm
  next =>
    split at h
    next hw => cases h; exact hw.symm
    next => cases h

theorem encode_of_decodeClass8 (ho : opOf w = 0x8) (h : decodeClass8 w = some i) : encode i = w := by
  unfold decodeClass8 at h
  split at h <;> cases h <;> exact word_eq_of_op_n ho ‹_›

theorem encode_of_decodeClassE (ho : opOf w = 0xE) (h : decodeClassE w = some i) : encode i = w := by
  unfold decodeClassE at h
  split at h <;> cases h <;> exact word_eq_of_op_kk ho ‹_›

theorem encode_of_decodeClassF (ho : opOf w = 0xF) (h : decodeClassF w = some i) : encode i = w := by
  unfold decodeClassF at h
  split at h <;> cases h <;> exact word_eq_of_op_kk ho ‹_›


/-- A word is of one of the sixteen classes. -/
theorem opOf_cases (w : Word) :
    opOf w = 0x0 ∨ opOf w = 0x1 ∨ opOf w = 0x2 ∨ opOf w = 0x3 ∨ opOf w = 0x4 ∨ opOf w = 0x5 ∨ opOf w = 0x6 ∨
    opOf w = 0x7 ∨ opOf w = 0x8 ∨ opOf w = 0x9 ∨ opOf w = 0xA ∨ opOf w = 0xB ∨ opOf w = 0xC ∨ opOf w = 0xD ∨
    opOf w = 0xE ∨ opOf w = 0xF := by
  generalize opOf w = o
  revert o
  decide

theorem encode_of_decodeWord (h : decodeWord w = some i) : encode i = w := by
  rcases opOf_cases w with
    ho | ho | ho | ho | ho | ho | ho | ho | ho | ho | ho | ho | ho | ho | ho | ho
  · exact encode_of_decodeClass0 (decodeWord_class0 ho ▸ h)
  · cases (decodeWord_class1 ho).symm.trans h; exact word_eq_of_op ho
  · cases (decodeWord_class2 ho).symm.trans h; exact word_eq_of_op ho
  · cases (decodeWord_class3 ho).symm.trans h; exact word_eq_of_op_kk ho rfl
  · cases (decodeWord_class4 ho).symm.trans h; exact word_eq_of_op_kk ho rfl
  · cases (decodeWord_class5 ho).symm.trans h; exact word_eq_of_op_n ho rfl
  · cases (decodeWord_class6 ho).symm.trans h; exact word_eq_of_op_kk ho rfl
  · cases (decodeWord_class7 ho).symm.trans h; exact word_eq_of_op_kk ho rfl
  · exact encode_of_decodeClass8 ho (decodeWord_class8 ho ▸ h)
  · cases (decodeWord_class9 ho).symm.trans h; exact word_eq_of_op_n ho rfl
  · cases (decodeWord_classA ho).symm.trans h; exact word_eq_of_op ho
  · cases (decodeWord_classB ho).symm.trans h; exact word_eq_of_op ho
  · cases (decodeWord_classC ho).symm.trans h; exact word_eq_of_op_kk ho rfl
  · cases (decodeWord_classD ho).symm.trans h; exact word_eq_of_op_n ho rfl
  · exact encode_of_decodeClassE ho (decodeWord_classE ho ▸ h)
  · exact encode_of_decodeClassF ho (decodeWord_classF ho ▸ h)

/-- Settles O2: each class of the decoder fixes the bits of the word that it does not keep in a field. -/
theorem encodeOfDecode : Obligations.EncodeOfDecode := fun _ _ => encode_of_decodeWord

end Sys2Proof
end

section
/-! The words that decode to no instruction (30_encoding.md R90), and the rows of table E3. -/

namespace Sys2Proof

variable {w : Word}

/-! ## INVALID, class by class -/

theorem decodeClass0_eq_none : decodeClass0 w = none ↔ w ≠ 0x00E0 ∧ w ≠ 0x00EE := by
  unfold decodeClass0
  split
  next h => simp [h]
  next h =>
    split
    next h' => simp [h']
    next h' => exact iff_of_true rfl ⟨h, h'⟩

theorem decodeClass8_eq_none :
    decodeClass8 w = none ↔ nOf w ∉ [0x0, 0x1, 0x2, 0x3, 0x4, 0x5, 0x6, 0x7, 0xE] := by
  unfold decodeClass8
  split <;> simp_all

theorem decodeClassE_eq_none : decodeClassE w = none ↔ kkOf w ∉ [0x9E, 0xA1] := by
  unfold decodeClassE
  split <;> simp_all

theorem decodeClassF_eq_none :
    decodeClassF w = none ↔ kkOf w ∉ [0x07, 0x0A, 0x15, 0x18, 0x1E, 0x29, 0x33, 0x55, 0x65] := by
  unfold decodeClassF
  split <;> simp_all


/-- The INVALID words by their fields: no class but 0x0, 0x8, 0xE and 0xF has one. -/
theorem decodeWord_eq_none : decodeWord w = none ↔
    (opOf w = 0x0 ∧ w ≠ 0x00E0 ∧ w ≠ 0x00EE) ∨
    (opOf w = 0x8 ∧ nOf w ∉ [0x0, 0x1, 0x2, 0x3, 0x4, 0x5, 0x6, 0x7, 0xE]) ∨
    (opOf w = 0xE ∧ kkOf w ∉ [0x9E, 0xA1]) ∨
    (opOf w = 0xF ∧ kkOf w ∉ [0x07, 0x0A, 0x15, 0x18, 0x1E, 0x29, 0x33, 0x55, 0x65]) := by
  rcases opOf_cases w with h | h | h | h | h | h | h | h | h | h | h | h | h | h | h | h
  · simp [h, decodeWord_class0, decodeClass0_eq_none]
  · simp [h, decodeWord_class1]
  · simp [h, decodeWord_class2]
  · simp [h, decodeWord_class3]
  · simp [h, decodeWord_class4]
  · simp [h, decodeWord_class5]
  · simp [h, decodeWord_class6]
  · simp [h, decodeWord_class7]
  · simp [h, decodeWord_class8, decodeClass8_eq_none]
  · simp [h, decodeWord_class9]
  · simp [h, decodeWord_classA]
  · simp [h, decodeWord_classB]
  · simp [h, decodeWord_classC]
  · simp [h, decodeWord_classD]
  · simp [h, decodeWord_classE, decodeClassE_eq_none]
  · simp [h, decodeWord_classF, decodeClassF_eq_none]

/-! ## Fields on natural numbers -/

theorem toNat_opOf (w : Word) : (opOf w).toNat = w.toNat / 4096 := by
  have hw := w.isLt
  simp only [opOf, BitVec.extractLsb'_toNat, Nat.shiftRight_eq_div_pow]
  omega

theorem toNat_nOf (w : Word) : (nOf w).toNat = w.toNat % 16 := by
  simp [nOf, BitVec.extractLsb'_toNat]

theorem toNat_kkOf (w : Word) : (kkOf w).toNat = w.toNat % 256 := by
  simp [kkOf, BitVec.extractLsb'_toNat]

/-- The nine low nibbles of class 0x8's instructions leave seven (R87). -/
theorem nOf_not_mem_iff : nOf w ∉ [0x0, 0x1, 0x2, 0x3, 0x4, 0x5, 0x6, 0x7, 0xE] ↔
    w.toNat % 16 ∈ [0x8, 0x9, 0xA, 0xB, 0xC, 0xD, 0xF] := by
  rw [← toNat_nOf]
  generalize nOf w = n
  revert n
  decide

/-- Settles O4: the INVALID words by their fields, read on natural numbers. -/
theorem invalidWordsAreExactlyTheListed : Obligations.InvalidWordsAreExactlyTheListed := by
  intro w
  rw [decodeWord_eq_none, nOf_not_mem_iff]
  simp only [List.mem_cons, List.not_mem_nil, or_false, ne_eq, ← BitVec.toNat_inj, toNat_opOf, toNat_kkOf,
    BitVec.ofNat_eq_ofNat, BitVec.toNat_ofNat, Nat.reducePow, Nat.reduceMod]

/-! ## The rows of table E3 -/

/-- What the encoder writes for an instruction matches the row of the instruction's ordinal. -/
theorem encodesItsRow (i : Instr) : Laws.EncodesItsRow.Statement i := by
  cases i with
  | cls => exact Laws.EncodesItsRow.cls
  | ret => exact Laws.EncodesItsRow.ret
  | jp nnn => exact Laws.EncodesItsRow.jp nnn
  | call nnn => exact Laws.EncodesItsRow.call nnn
  | seVK x kk => exact Laws.EncodesItsRow.seVK x kk
  | sneVK x kk => exact Laws.EncodesItsRow.sneVK x kk
  | seVV x y n => exact Laws.EncodesItsRow.seVV x y n
  | ldVK x kk => exact Laws.EncodesItsRow.ldVK x kk
  | addVK x kk => exact Laws.EncodesItsRow.addVK x kk
  | ldVV x y => exact Laws.EncodesItsRow.ldVV x y
  | orVV x y => exact Laws.EncodesItsRow.orVV x y
  | andVV x y => exact Laws.EncodesItsRow.andVV x y
  | xorVV x y => exact Laws.EncodesItsRow.xorVV x y
  | addVV x y => exact Laws.EncodesItsRow.addVV x y
  | sub x y => exact Laws.EncodesItsRow.sub x y
  | shr x y => exact Laws.EncodesItsRow.shr x y
  | subn x y => exact Laws.EncodesItsRow.subn x y
  | shl x y => exact Laws.EncodesItsRow.shl x y
  | sneVV x y n => exact Laws.EncodesItsRow.sneVV x y n
  | ldI nnn => exact Laws.EncodesItsRow.ldI nnn
  | jpV0 nnn => exact Laws.EncodesItsRow.jpV0 nnn
  | rnd x kk => exact Laws.EncodesItsRow.rnd x kk
  | drw x y n => exact Laws.EncodesItsRow.drw x y n
  | skp x => exact Laws.EncodesItsRow.skp x
  | sknp x => exact Laws.EncodesItsRow.sknp x
  | ldVDT x => exact Laws.EncodesItsRow.ldVDT x
  | ldVKey x => exact Laws.EncodesItsRow.ldVKey x
  | ldDTV x => exact Laws.EncodesItsRow.ldDTV x
  | ldSTV x => exact Laws.EncodesItsRow.ldSTV x
  | addIV x => exact Laws.EncodesItsRow.addIV x
  | ldFV x => exact Laws.EncodesItsRow.ldFV x
  | ldBV x => exact Laws.EncodesItsRow.ldBV x
  | ldMemV x => exact Laws.EncodesItsRow.ldMemV x
  | ldVMem x => exact Laws.EncodesItsRow.ldVMem x

/-- A word that decodes matches the row of what it decodes to. -/
theorem matches_of_decodeWord {i : Instr} (h : decodeWord w = some i) (hk : i.ordinal < encodingRows.length) :
    (encodingRows[i.ordinal]).matches w := by
  have hrow := (encodesItsRow i).2
  rwa [encode_of_decodeWord h, List.getD_eq_getElem _ _ hk] at hrow

/-- Rows that one word matches agree on the bits that both their masks keep. -/
theorem EncodingRow.agree_of_matches {r q : EncodingRow} (hr : r.matches w) (hq : q.matches w) :
    r.pattern &&& q.mask = q.pattern &&& r.mask := by
  rw [← hr, ← hq, BitVec.and_assoc, BitVec.and_assoc, BitVec.and_comm r.mask]

/-- Any two rows of table E3 differ in a bit that both their masks keep. -/
theorem encodingRows_exclusive : ∀ j k : Fin encodingRows.length,
    encodingRows[j].pattern &&& encodingRows[k].mask = encodingRows[k].pattern &&& encodingRows[j].mask → j = k := by
  decide

theorem index_eq_of_matches {j k : Nat} (hj : j < encodingRows.length) (hk : k < encodingRows.length)
    (hjw : (encodingRows[j]).matches w) (hkw : (encodingRows[k]).matches w) : j = k :=
  congrArg Fin.val (encodingRows_exclusive ⟨j, hj⟩ ⟨k, hk⟩ (EncodingRow.agree_of_matches hjw hkw))

theorem opOf_and (w v : Word) : opOf (w &&& v) = opOf w &&& opOf v := BitVec.extractLsb'_and

theorem nOf_and (w v : Word) : nOf (w &&& v) = nOf w &&& nOf v := BitVec.extractLsb'_and

theorem kkOf_and (w v : Word) : kkOf (w &&& v) = kkOf w &&& kkOf v := BitVec.extractLsb'_and

/-- A matching word has the row's class, since every mask keeps the class. -/
theorem EncodingRow.opOf_eq {r : EncodingRow} (hr : r ∈ encodingRows) (h : r.matches w) : opOf w = opOf r.pattern := by
  have hmask : ∀ q ∈ encodingRows, opOf q.mask = BitVec.allOnes 4 := by decide
  rw [← h, opOf_and, hmask r hr, BitVec.and_allOnes]

/-- A word that matches a row decodes: in the classes with INVALID words the row's mask keeps
the bits that decide, and its pattern there is that of an instruction. -/
theorem decodeWord_ne_none_of_matches {r : EncodingRow} (hr : r ∈ encodingRows) (h : r.matches w) :
    decodeWord w ≠ none := by
  intro hnone
  have hop := EncodingRow.opOf_eq hr h
  have hn : nOf w &&& nOf r.mask = nOf r.pattern := by rw [← nOf_and, h]
  have hkk : kkOf w &&& kkOf r.mask = kkOf r.pattern := by rw [← kkOf_and, h]
  rcases decodeWord_eq_none.mp hnone with ⟨hclass, hcls, hret⟩ | ⟨hclass, hbad⟩ | ⟨hclass, hbad⟩ | ⟨hclass, hbad⟩
  · have hrow : ∀ q ∈ encodingRows, opOf q.pattern = 0x0 →
        q.mask = BitVec.allOnes 16 ∧ (q.pattern = 0x00E0 ∨ q.pattern = 0x00EE) := by decide
    obtain ⟨hmask, hpattern⟩ := hrow r hr (hop.symm.trans hclass)
    have hw : w = r.pattern := by rw [← h, hmask, BitVec.and_allOnes]
    exact hpattern.elim (fun e => hcls (hw.trans e)) (fun e => hret (hw.trans e))
  · have hrow : ∀ q ∈ encodingRows, opOf q.pattern = 0x8 → nOf q.mask = BitVec.allOnes 4 ∧
        nOf q.pattern ∈ [0x0, 0x1, 0x2, 0x3, 0x4, 0x5, 0x6, 0x7, 0xE] := by decide
    obtain ⟨hmask, hpattern⟩ := hrow r hr (hop.symm.trans hclass)
    rw [hmask, BitVec.and_allOnes] at hn
    exact hbad (hn ▸ hpattern)
  · have hrow : ∀ q ∈ encodingRows, opOf q.pattern = 0xE → kkOf q.mask = BitVec.allOnes 8 ∧
        kkOf q.pattern ∈ [0x9E, 0xA1] := by decide
    obtain ⟨hmask, hpattern⟩ := hrow r hr (hop.symm.trans hclass)
    rw [hmask, BitVec.and_allOnes] at hkk
    exact hbad (hkk ▸ hpattern)
  · have hrow : ∀ q ∈ encodingRows, opOf q.pattern = 0xF → kkOf q.mask = BitVec.allOnes 8 ∧
        kkOf q.pattern ∈ [0x07, 0x0A, 0x15, 0x18, 0x1E, 0x29, 0x33, 0x55, 0x65] := by decide
    obtain ⟨hmask, hpattern⟩ := hrow r hr (hop.symm.trans hclass)
    rw [hmask, BitVec.and_allOnes] at hkk
    exact hbad (hkk ▸ hpattern)

/-- Settles O5: a word that matches a row decodes, and then matches the row of what it decodes to, which is
that row since no word matches two. -/
theorem decoderAgreesWithTheMaskAndMatchRows : Obligations.DecoderAgreesWithTheMaskAndMatchRows := by
  refine ⟨fun w k hk => ⟨fun hmatch => ?decodes, ?rowMatches⟩, rfl, fun w j k hj hk => index_eq_of_matches hj hk⟩
  case decodes =>
    obtain ⟨i, hi⟩ := Option.ne_none_iff_exists'.mp (decodeWord_ne_none_of_matches (List.getElem_mem hk) hmatch)
    have hordinal : i.ordinal < encodingRows.length := (encodesItsRow i).1
    exact ⟨i, hi, index_eq_of_matches hordinal hk (matches_of_decodeWord hi hordinal) hmatch⟩
  case rowMatches =>
    rintro ⟨i, hi, rfl⟩
    exact matches_of_decodeWord hi hk

/-- Settles O6: the decoder, run on the words that 95_test_vectors.md writes out. -/
theorem writtenOutWordsDecode : Obligations.WrittenOutWordsDecode := by
  unfold Obligations.WrittenOutWordsDecode
  decide

end Sys2Proof
end

section
/-! The family 42_alu_shift.md: the immediate addition and the bitwise operations. -/

namespace Sys2Proof.Machine

section
variable (logicVfReset : Bool) (a b : Byte)

theorem alu_addk : alu logicVfReset .addk a b = ⟨addByte a b, false, false⟩ := rfl
theorem alu_or : alu logicVfReset .or a b = ⟨a ||| b, false, logicVfReset⟩ := rfl
theorem alu_and : alu logicVfReset .and a b = ⟨a &&& b, false, logicVfReset⟩ := rfl
theorem alu_xor : alu logicVfReset .xor a b = ⟨a ^^^ b, false, logicVfReset⟩ := rfl
end

variable {s : State} {fn : AluFn} {a b res : Byte}

/-- A row of table A1 whose flag is 0 and is written as LOGIC_VF_RESET says (R149). -/
theorem aluInstr_of_logic (x : Nibble)
    (h : alu s.config.logicVfReset fn a b = ⟨res, false, s.config.logicVfReset⟩) :
    ∃ t, aluInstr fn x a b s = .next t ∧
      (s.config.logicVfReset = false → Frame s t [x] []) ∧
      (s.config.logicVfReset = true → t.getV 0xF = 0x00 ∧ Frame s t [x, 0xF] []) ∧
      (s.config.logicVfReset = false ∨ x ≠ 0xF → t.getV x = res) ∧ t.pc = s.pc + 2 ∧ CycleEnds s t := by
  cases hreset : s.config.logicVfReset with
  | false =>
    have hrow : alu s.config.logicVfReset fn a b = ⟨res, false, false⟩ := by rw [h, hreset]
    obtain ⟨t, hexec, hres, hpc, hends, hframe⟩ := aluInstr_of_no_flag x hrow
    exact ⟨t, hexec, fun _ => hframe, nofun, fun _ => hres, hpc, hends⟩
  | true =>
    have hrow : alu s.config.logicVfReset fn a b = ⟨res, false, true⟩ := by rw [h, hreset]
    obtain ⟨t, hexec, hres, hflag, hpc, hends, hframe⟩ := aluInstr_of_flag x hrow
    exact ⟨t, hexec, nofun, fun _ => ⟨hflag, hframe⟩, fun hx => hres (hx.resolve_left nofun), hpc, hends⟩

/-- Settles O8: the unit's addition without a flag. -/
theorem addImmediateWrapsAndWritesNoFlag : Obligations.AddImmediateWrapsAndWritesNoFlag := by
  intro x kk s
  obtain ⟨t, hexec, hres, hrest⟩ := aluInstr_of_no_flag x (alu_addk s.config.logicVfReset (s.getV x) kk)
  exact ⟨decodeWord_addVK x kk, t, hexec, by rw [hres, toNat_addByte], hrest⟩

/-- Settles O9: the unit's three bitwise rows, each read bit by bit. -/
theorem logicOperations : Obligations.LogicOperations := by
  rintro x y code s i f (⟨rfl, rfl, rfl⟩ | ⟨rfl, rfl, rfl⟩ | ⟨rfl, rfl, rfl⟩)
  · obtain ⟨t, hexec, hkept, hreset, hres, hrest⟩ :=
      aluInstr_of_logic x (alu_or s.config.logicVfReset (s.getV x) (s.getV y))
    exact ⟨decodeWord_8xyn decodeClass8_orVV x y, t, hexec, hkept, hreset,
      fun hx b _ => by rw [hres hx, BitVec.getLsbD_or], hrest⟩
  · obtain ⟨t, hexec, hkept, hreset, hres, hrest⟩ :=
      aluInstr_of_logic x (alu_and s.config.logicVfReset (s.getV x) (s.getV y))
    exact ⟨decodeWord_8xyn decodeClass8_andVV x y, t, hexec, hkept, hreset,
      fun hx b _ => by rw [hres hx, BitVec.getLsbD_and], hrest⟩
  · obtain ⟨t, hexec, hkept, hreset, hres, hrest⟩ :=
      aluInstr_of_logic x (alu_xor s.config.logicVfReset (s.getV x) (s.getV y))
    exact ⟨decodeWord_8xyn decodeClass8_xorVV x y, t, hexec, hkept, hreset,
      fun hx b _ => by rw [hres hx, BitVec.getLsbD_xor], hrest⟩

end Sys2Proof.Machine
end

section
/-! The family 41_control_flow.md: call, computed jump, and the skips on keys. -/

namespace Sys2Proof.Machine

variable {s : State}

/-! ## Call -/

theorem execCall_of_free (nnn : Addr) (h : s.sp.val < 16) :
    execCall nnn s =
      complete ({ s with stack := s.stack.set s.sp.val s.pc h, sp := ⟨s.sp.val + 1, by omega⟩ }.jump (addrOperand nnn)) :=
  dif_pos h

/-- SP and the entries are the stack's own piece of state, so writing them keeps every other piece. -/
theorem frame_setStack (s : State) (entries : Vector Word 16) (k : Fin 17) :
    Frame s { s with stack := entries, sp := k } [] [.stack] :=
  { Frame.refl s [] [.stack] with
    sp_same := fun h => absurd (List.mem_singleton_self _) h
    stack_same := fun h => absurd (List.mem_singleton_self _) h }

/-- Settles O17: the call's branch on a free entry. -/
theorem callPushesItsOwnAddress : Obligations.CallPushesItsOwnAddress := by
  intro nnn s
  refine ⟨decodeWord_call nnn, fun hfree => ⟨_, execCall_of_free nnn hfree, ?_, rfl, fun j hj hne => ?_,
    toNat_addrOperand nnn, cycleEnds_completed rfl rfl, ((frame_setStack s _ _).jump _).completed⟩⟩
  · exact Vector.getElem_set_self hfree
  · exact Vector.getElem_set_ne hfree hj hne.symm

theorem Frame.trans {s u t : State} {regs : List Nibble} {parts : List Part} (h : Frame s u regs parts)
    (h' : Frame u t regs parts) : Frame s t regs parts where
  regs_same r hr := (h'.regs_same r hr).trans (h.regs_same r hr)
  memory_same hp a := (h'.memory_same hp a).trans (h.memory_same hp a)
  index_same hp := (h'.index_same hp).trans (h.index_same hp)
  sp_same hp := (h'.sp_same hp).trans (h.sp_same hp)
  stack_same hp := (h'.stack_same hp).trans (h.stack_same hp)
  dt_same hp := (h'.dt_same hp).trans (h.dt_same hp)
  st_same hp := (h'.st_same hp).trans (h.st_same hp)
  grid_same hp := (h'.grid_same hp).trans (h.grid_same hp)
  redraw_same hp := (h'.redraw_same hp).trans (h.redraw_same hp)
  randIn_same hp := (h'.randIn_same hp).trans (h.randIn_same hp)
  draws_same hp := (h'.draws_same hp).trans (h.draws_same hp)
  keys_same := h'.keys_same.trans h.keys_same
  config_same := h'.config_same.trans h.config_same
  inputs_same := h'.inputs_same.trans h.inputs_same

/-- Settles O19: the return pops the entry that the call has pushed. -/
theorem returnAfterCallComesBack : Obligations.ReturnAfterCallComesBack := by
  intro nnn s t hfree hcall
  obtain ⟨t', hcall', hpushed, hsp, _, _, _, hframe⟩ := (callPushesItsOwnAddress nnn s).2 hfree
  obtain rfl : t' = t := by
    rw [hcall] at hcall'
    cases hcall'
    rfl
  have hused : 0 < t'.sp.val := by omega
  obtain ⟨u, hret, husp, hupc, _, _, huframe⟩ := (returnPopsOrUnderflows.2 t').1 hused
  have hpc : u.pc = s.pc + 2 := by
    simp only [hupc, hsp, Nat.add_sub_cancel, hpushed]
  exact ⟨u, hret, hpc, Fin.ext (by omega), hframe.trans huframe⟩

/-! ## Computed jump -/

/-- Settles O22: a jump to the 16-bit sum, which 12 bits and 8 bits cannot make wrap. -/
theorem computedJumpAddsV0 : Obligations.ComputedJumpAddsV0 := by
  intro nnn s
  obtain ⟨t, hexec, hpc, hrest⟩ := complete_jump s (addrOperand nnn + (s.getV 0).setWidth 16)
  exact ⟨decodeWord_jpV0 nnn, t, hexec, by rw [hpc, toNat_addrOperand_add_byte], hrest⟩

/-! ## Key and digit numbers -/

/-- A number that is in range, or that the policy reduces, is its low nibble. -/
theorem numberOperand_of_ok {policy : IndexPolicy} {b : Byte} (h : b.toNat ≤ 0xF ∨ policy = .lowNibble) :
    numberOperand policy b = .ok (b.setWidth 4) := by
  rcases numberOperand_cases policy b with ⟨_, hok⟩ | ⟨hlarge, hpolicy, _⟩
  · exact hok
  · rcases h with hsmall | hlow
    · omega
    · exact nomatch hpolicy.symm.trans hlow

theorem numberOperand_of_large {b : Byte} (h : 0xF < b.toNat) :
    numberOperand .fault b = .error { kind := .operandRange, address := none, value := some b } := by
  rcases numberOperand_cases .fault b with ⟨hsmall | hlow, _⟩ | ⟨_, _, herr⟩
  · omega
  · nomatch hlow
  · exact herr

/-- The key flag that the low nibble of a byte names. -/
theorem keyBit_setWidth (keys : Word) (b : Byte) : keyBit keys (b.setWidth 4) = keys.getLsbD (b.toNat % 16) := by
  rw [keyBit, BitVec.toNat_setWidth]

theorem skipOnKey_of_ok (i : Instr) {x : Nibble} (pressed : Bool)
    (h : (s.getV x).toNat ≤ 0xF ∨ s.config.keyIndex = .lowNibble) :
    skipOnKey i x pressed s = skipIf (s.keys.getLsbD ((s.getV x).toNat % 16) == pressed) s := by
  rw [skipOnKey, numberOperand_of_ok h, ← keyBit_setWidth]

theorem skipOnKey_of_large (i : Instr) {x : Nibble} (pressed : Bool) (h : 0xF < (s.getV x).toNat)
    (hpolicy : s.config.keyIndex = .fault) :
    skipOnKey i x pressed s = raise i { kind := .operandRange, address := none, value := some (s.getV x) } s := by
  rw [skipOnKey, hpolicy, numberOperand_of_large h]

/-- Settles O23: the skip on the key's flag, and on its negation. -/
theorem keySkips : Obligations.KeySkips := by
  intro x s
  refine ⟨decodeWord_Exkk decodeClassE_skp x, decodeWord_Exkk decodeClassE_sknp x, fun hok => ⟨?pressed, ?released⟩⟩
  case pressed =>
    obtain ⟨t, hexec, hpc, hrest⟩ := complete_jump s
      (if s.keys.getLsbD ((s.getV x).toNat % 16) == true then s.pc + 4 else s.pc + 2)
    exact ⟨t, (skipOnKey_of_ok (.skp x) true hok).trans hexec, by rw [hpc, beq_true], hrest⟩
  case released =>
    obtain ⟨t, hexec, hpc, hrest⟩ := complete_jump s
      (if s.keys.getLsbD ((s.getV x).toNat % 16) == false then s.pc + 4 else s.pc + 2)
    refine ⟨t, (skipOnKey_of_ok (.sknp x) false hok).trans hexec, ?_, hrest⟩
    rw [hpc]
    cases s.keys.getLsbD ((s.getV x).toNat % 16) <;> rfl

theorem exec_ldFV_of_ok {x : Nibble} (h : (s.getV x).toNat ≤ 0xF ∨ s.config.fontDigit = .lowNibble) :
    exec (.ldFV x) s = completeNext (s.setI (glyphAddress s.config.fontBase ((s.getV x).setWidth 4))) := by
  rw [exec, execLdFV, numberOperand_of_ok h]

theorem exec_ldFV_of_large {x : Nibble} (h : 0xF < (s.getV x).toNat) (hpolicy : s.config.fontDigit = .fault) :
    exec (.ldFV x) s = raise (.ldFV x) { kind := .operandRange, address := none, value := some (s.getV x) } s := by
  rw [exec, execLdFV, hpolicy, numberOperand_of_large h]

/-- Settles O24: each of the three instructions raises the fault of its number operand. -/
theorem numbersAboveFifteenFault : Obligations.NumbersAboveFifteenFault := by
  intro x s hlarge
  refine ⟨fun hpolicy => ⟨?_, ?_⟩, fun hpolicy => ?_⟩
  · exact ⟨_, skipOnKey_of_large (.skp x) true hlarge hpolicy, tookFault_faulted _ _ _⟩
  · exact ⟨_, skipOnKey_of_large (.sknp x) false hlarge hpolicy, tookFault_faulted _ _ _⟩
  · exact ⟨_, exec_ldFV_of_large hlarge hpolicy, tookFault_faulted _ _ _⟩

end Sys2Proof.Machine
end

section
/-! The family 44_index_memory.md: sums and glyphs in I, the block store, and the accesses beyond memory. -/

namespace Sys2Proof.Machine

variable {s t : State}

/-! ## I -/

/-- Settles O31: I takes the 16-bit sum, and no other piece of state is written. -/
theorem addToIndexWrapsAndWritesNoFlag : Obligations.AddToIndexWrapsAndWritesNoFlag := by
  intro x s
  obtain ⟨t, hexec, hi, hrest⟩ := completeNext_setI s (s.i + (s.getV x).setWidth 16)
  have hsum : t.i.toNat = (s.i.toNat + (s.getV x).toNat) % 65536 := by
    rw [hi, BitVec.toNat_add, BitVec.toNat_setWidth_of_le (by decide)]
  exact ⟨decodeWord_Fxkk decodeClassF_addIV x, t, hexec, hsum, hrest⟩

/-- A font that table P2 allows lies below 0x200, so no glyph's address is reduced. -/
theorem toNat_glyphAddress {c : Config} (hc : c.wellFormed) (d : Nibble) :
    (glyphAddress c.fontBase d).toNat = c.fontBase + 5 * d.toNat := by
  have hd := d.isLt
  simp only [Config.wellFormed] at hc
  rw [glyphAddress, BitVec.toNat_ofNat]
  omega

/-- Settles O32: I takes the address of the glyph that the low nibble of V[x] names. -/
theorem loadGlyphAddress : Obligations.LoadGlyphAddress := by
  intro x s
  refine ⟨decodeWord_Fxkk decodeClassF_ldFV x, fun hwf hok => ?_⟩
  obtain ⟨t, hexec, hi, hrest⟩ :=
    completeNext_setI s (glyphAddress s.config.fontBase ((s.getV x).setWidth 4))
  refine ⟨t, (exec_ldFV_of_ok hok).trans hexec, ?_, hrest⟩
  rw [hi, toNat_glyphAddress hwf, BitVec.toNat_setWidth]

/-! ## The block store -/

theorem exec_ldMemV (x : Nibble) (s : State) : exec (.ldMemV x) s = storeAtI (.ldMemV x) (s.regsUpTo x) s := rfl

/-- The byte of `[V[0], ..., V[x]]` at a register's number is that register. -/
theorem State.getD_regsUpTo_toNat (s : State) {x r : Nibble} (h : r.toNat ≤ x.toNat) :
    (s.regsUpTo x).getD r.toNat 0 = s.getV r := by
  rw [State.getD_regsUpTo s x r.toNat h, BitVec.ofNat_toNat, BitVec.setWidth_eq]

/-- Settles O34: the store at I of V0..Vx, where the two checks let it pass, and where the second does not. -/
theorem blockStore : Obligations.BlockStore := by
  intro x s
  have hlen := State.length_regsUpTo s x
  have hx := x.isLt
  refine ⟨decodeWord_Fxkk decodeClassF_ldMemV x, fun hin hallowed => ?stores, fun hlow hpolicy => ?reserved⟩
  case stores =>
    obtain ⟨t, hexec, hbytes, hkept, hrest⟩ :=
      storeAtI_stores (bytes := s.regsUpTo x) (.ldMemV x) (by simp only [hlen, memSize]; omega) hallowed
    have hregs : ∀ r : Nibble, r.toNat ≤ x.toNat → t.readByte (s.i.toNat + r.toNat) = s.getV r := fun r hr => by
      rw [hbytes r.toNat (by omega), State.getD_regsUpTo_toNat s hr]
    exact ⟨t, (exec_ldMemV x s).trans hexec, hregs, hlen ▸ hkept, hrest⟩
  case reserved =>
    exact storeAtI_reserved (.ldMemV x) (by omega) (by simp only [hlen, memSize]; omega)
      (by simp only [reservedEnd]; omega) hpolicy

/-- A store at I raises a fault, or passes both checks (20_memory.md R65) and stores every byte. -/
theorem storeAtI_cases (i : Instr) (bytes : List Byte) (s : State) :
    (∃ f, storeAtI i bytes s = raise i f s) ∨
    ((bytes.length = 0 ∨ s.i.toNat + bytes.length ≤ memSize) ∧
      (s.config.reservedWrite = .perform ∨ bytes.length = 0 ∨ reservedEnd ≤ s.i.toNat) ∧
      storeAtI i bytes s = completeNext (s.storeBytes s.i.toNat bytes)) := by
  rw [storeAtI]
  rcases s.memWrite_cases s.i bytes with ⟨_, _, h⟩ | ⟨_, _, _, _, h⟩ | ⟨hin, hallowed, h⟩ <;> rw [h]
  · exact .inl ⟨_, rfl⟩
  · exact .inl ⟨_, rfl⟩
  · exact .inr ⟨hin, hallowed, rfl⟩

/-- A block store that completes lies inside memory, and each stored register reads back. -/
theorem readByte_of_blockStore {x : Nibble} (hexec : exec (.ldMemV x) s = .next t) (hready : t.status = .ready) :
    s.i.toNat + x.toNat ≤ 0xFFF ∧ t.config = s.config ∧
      ∀ r : Nibble, r.toNat ≤ x.toNat → t.readByte (s.i.toNat + r.toNat) = s.getV r := by
  have hlen := State.length_regsUpTo s x
  rw [exec_ldMemV] at hexec
  rcases storeAtI_cases (.ldMemV x) (s.regsUpTo x) s with ⟨f, hraise⟩ | ⟨hin, _, hstore⟩
  · cases hraise.symm.trans hexec
    cases hready
  · cases hstore.symm.trans hexec
    refine ⟨by simp only [memSize] at hin; omega, rfl, fun r hr => ?_⟩
    rw [State.readByte_completed, State.readByte_advance, State.readByte_storeBytes, if_pos (by omega),
      Nat.add_sub_cancel_left, State.getD_regsUpTo_toNat s hr]

/-- Settles O36: the load reads each stored byte back into its register. -/
theorem blockStoreThenLoadRoundTrip : Obligations.BlockStoreThenLoadRoundTrip := by
  intro x s t u w hstore hready hmem hi hconfig hload
  obtain ⟨hin, htconfig, hstored⟩ := readByte_of_blockStore hstore hready
  obtain ⟨w', hload', hloaded, hkept, _, hends, hframe⟩ := (blockLoad x u).2.1 (hi ▸ hin)
  cases hload'.symm.trans hload
  refine ⟨hends.status_ready, (hframe.index_same List.not_mem_nil).trans hi, fun r => ?_⟩
  split
  next hr => rw [hloaded r hr, State.readByte_congr hmem (hconfig.trans htconfig.symm), hi, hstored r hr]
  next hr => exact hkept r (Nat.lt_of_not_le hr)

/-- Settles O37: the two bytes at I are V0 and V1, and the fetch forms their word. -/
theorem storedBytesAreFetched : Obligations.StoredBytesAreFetched := by
  intro x s t hx hstore hready
  obtain ⟨hin, _, hstored⟩ := readByte_of_blockStore hstore hready
  have hhi : { t with pc := s.i }.readByte s.i.toNat = s.getV 0 := hstored 0 (Nat.zero_le _)
  have hlo : { t with pc := s.i }.readByte (s.i.toNat + 1) = s.getV 1 := hstored 1 hx
  have hpc : { t with pc := s.i }.pc.toNat ≤ 0xFFE := by
    show s.i.toNat ≤ 0xFFE
    omega
  rw [fetchWord_inside hpc, hhi, hlo, wordOfBytes]

/-! ## Accesses beyond memory -/

theorem exec_drw_outside (x y : Nibble) {n : Nibble} (hn : 0 < n.toNat) (hout : 0x1000 < s.i.toNat + n.toNat) :
    exec (.drw x y n) s = raise (.drw x y n) (boundsFault (lowestOutside s.i)) s := by
  rcases s.memRead_cases s.i n.toNat with ⟨_, _, herr⟩ | ⟨hnone | hin, _⟩
  · rw [exec, execDrw, herr]
    rfl
  · omega
  · simp only [memSize] at hin
    omega

/-- Settles O27: each of the four instructions raises the fault of its checked access. -/
theorem accessesBeyondMemoryFault : Obligations.AccessesBeyondMemoryFault := by
  intro x y n s
  have hlen := State.length_regsUpTo s x
  refine ⟨fun hn hout => ?draw, fun hout => ?decimal, fun hout => ⟨?store, ?load⟩⟩
  case draw => exact ⟨_, exec_drw_outside x y hn hout, tookFault_faulted _ _ _⟩
  case decimal => exact storeAtI_outside (.ldBV x) (bytes := decimalDigits (s.getV x)) (Nat.succ_pos _) hout
  case store => exact storeAtI_outside (.ldMemV x) (by omega) (by simp only [hlen, memSize]; exact hout)
  case load => exact (blockLoad x s).2.2 (by omega)

end Sys2Proof.Machine
end

section
/-! The family 45_timers_keys_random.md: the key wait and the random byte. -/

namespace Sys2Proof.Machine

variable {s u : State} {regs : List Nibble} {parts : List Part}

/-! ## Key wait -/

theorem getLsbD_newlyPressed (s : State) {k : Nat} (hk : k < 16) :
    s.newlyPressed.getLsbD k = (s.keys.getLsbD k && !s.kprev.getLsbD k) := by
  simp [State.newlyPressed, hk]

/-- The lowest key of a set is the key of it that no lower key is in. -/
theorem lowestKey_eq_some {keys : Word} {k : Nat} (hk : k < 16) (hin : keys.getLsbD k = true)
    (hlow : ∀ j < k, keys.getLsbD j = false) : lowestKey keys = some (BitVec.ofNat 4 k) := by
  have hfind : (List.range 16).find? (fun j => keys.getLsbD j) = some k :=
    List.find?_range_eq_some.mpr ⟨hin, List.mem_range.mpr hk, fun j hj => by rw [hlow j hj]; rfl⟩
  rw [lowestKey, hfind, Option.map_some]

theorem exec_ldVKey_of_some {x k : Nibble} (h : lowestKey s.newlyPressed = some k) :
    exec (.ldVKey x) s = completeNext (s.setV x (k.setWidth 8)) := by
  rw [exec, execLdVKey, h]

theorem exec_ldVKey_of_none {x : Nibble} (h : lowestKey s.newlyPressed = none) :
    exec (.ldVKey x) s = wait s := by
  rw [exec, execLdVKey, h]

/-- Settles O39: the handler's two ends, on the lowest newly pressed key and on no such key. -/
theorem keyWait : Obligations.KeyWait := by
  intro x s
  refine ⟨decodeWord_Fxkk decodeClassF_ldVKey x, fun k hk hpressed hnew hlow => ?stores, fun hold => ?waits⟩
  case stores =>
    have hkey : lowestKey s.newlyPressed = some (BitVec.ofNat 4 k) := by
      refine lowestKey_eq_some hk ?_ fun j hj => ?_
      · rw [getLsbD_newlyPressed s hk, hpressed, hnew]; rfl
      · rw [getLsbD_newlyPressed s (by omega)]
        simpa using hlow j hj
    obtain ⟨t, hexec, hv, hrest⟩ := completeNext_setV s x ((BitVec.ofNat 4 k).setWidth 8)
    refine ⟨t, (exec_ldVKey_of_some hkey).trans hexec, ?_, hrest⟩
    rw [hv, BitVec.toNat_setWidth, BitVec.toNat_ofNat]
    omega
  case waits =>
    refine exec_ldVKey_of_none (lowestKey_eq_none.mpr fun k hk => ?_)
    rw [getLsbD_newlyPressed s hk]
    simpa using hold k hk

/-! ## Random byte -/

/-- Sampling the rand input writes the list and the counter alone. -/
theorem frame_sampleRand (s : State) (regs : List Nibble) : Frame s s.sampleRand.2 regs [.rand] := by
  rcases s.sampleRand_cases with ⟨b, rest, _, hs⟩ | ⟨_, hs⟩ <;> rw [hs]
  · exact { Frame.refl s regs [.rand] with randIn_same := fun h => absurd (List.mem_singleton_self _) h }
  · exact { Frame.refl s regs [.rand] with draws_same := fun h => absurd (List.mem_singleton_self _) h }

@[simp] theorem State.sampleRand_fault (s : State) : s.sampleRand.2.fault = s.fault := by
  rcases s.sampleRand_cases with ⟨b, rest, _, h⟩ | ⟨_, h⟩ <;> rw [h]

/-- Settles O40: V[x] takes the masked sample, whichever of the two it is. -/
theorem randomByteIsMasked : Obligations.RandomByteIsMasked := by
  intro x kk s
  have hframe : Frame s (s.sampleRand.2.setV x (s.sampleRand.1 &&& kk)) [x] [.rand] :=
    (frame_sampleRand s [x]).setV (List.mem_singleton_self x) _
  have hlisted : ∀ b rest, s.randIn = b :: rest → s.sampleRand = (b, { s with randIn := rest }) := fun b rest h => by
    rw [State.sampleRand, h]
  have hfree : s.randIn = [] → s.sampleRand = (Config.freeRand s.draws, { s with draws := s.draws + 1 }) := fun h => by
    rw [State.sampleRand, h]
  refine ⟨decodeWord_rnd x kk, _, s.sampleRand.1, rfl, State.getV_setV_same _ x _, fun b rest h => ?_, fun h => ?_,
    congrArg (· + 2) s.sampleRand_pc, cycleEnds_completed hframe.keys_same s.sampleRand_fault,
    hframe.advance.completed⟩
  · rw [hlisted b rest h]
    exact ⟨rfl, rfl, rfl⟩
  · rw [hfree h]
    exact ⟨rfl, h, rfl⟩

end Sys2Proof.Machine
end

section
/-! The family 43_sprite_compositor.md: the draw function as one flip per cell that a set bit meets. -/

namespace Sys2Proof.Machine

/-! ## One flip -/

/-- A flip writes one pixel. -/
theorem Grid.pixel_flipPixel (g : Grid) (r r' : Fin 32) (c c' : Fin 64) :
    Grid.pixel (flipPixel g r c) r' c' = if (r', c') = (r, c) then !g.pixel r c else g.pixel r' c' := by
  by_cases hr : r' = r
  · subst hr
    have hrow : (flipPixel g r' c)[r'] = g[r'] ^^^ BitVec.twoPow 64 c.val := Vector.getElem_set_self r'.isLt
    rw [Grid.pixel, hrow, BitVec.getLsbD_xor, BitVec.getLsbD_twoPow]
    by_cases hc : c' = c
    · subst hc
      simp [Grid.pixel, c'.isLt]
    · simp [Grid.pixel, hc, Fin.val_inj, Ne.symm hc]
  · have hrow : (flipPixel g r c)[r'] = g[r'] :=
      Vector.getElem_set_ne r.isLt r'.isLt fun e => hr (Fin.ext e.symm)
    rw [Grid.pixel, hrow, if_neg fun e => hr (congrArg Prod.fst e), Grid.pixel]

/-- Grids with the same pixels are the same grid. -/
theorem Grid.ext_pixel {g g' : Grid} (h : ∀ r c, g.pixel r c = g'.pixel r c) : g = g' := by
  refine Vector.ext fun i hi => BitVec.eq_of_getLsbD_eq fun j hj => ?_
  exact h ⟨i, hi⟩ ⟨j, hj⟩

/-! ## Flips of a list of cells -/

/-- Flip each cell of a list in order, and collide when one of them was 1 (R170). -/
def flipCells (acc : Grid × Bool) (cells : List (Fin 32 × Fin 64)) : Grid × Bool :=
  cells.foldl (fun acc p => drawBit acc p.1 p.2 true) acc

theorem flipCells_cons (acc : Grid × Bool) (p : Fin 32 × Fin 64) (cells : List (Fin 32 × Fin 64)) :
    flipCells acc (p :: cells) = flipCells (flipPixel acc.1 p.1 p.2, acc.2 || acc.1.pixel p.1 p.2) cells := rfl

/-- Where no cell is listed twice, exactly the listed cells are flipped. -/
theorem pixel_flipCells {cells : List (Fin 32 × Fin 64)} (hnodup : cells.Nodup) (acc : Grid × Bool)
    (r : Fin 32) (c : Fin 64) :
    (flipCells acc cells).1.pixel r c = if (r, c) ∈ cells then !acc.1.pixel r c else acc.1.pixel r c := by
  induction cells generalizing acc with
  | nil => rfl
  | cons p cells ih =>
    obtain ⟨hp, hrest⟩ := List.nodup_cons.mp hnodup
    rw [flipCells_cons, ih hrest, Grid.pixel_flipPixel]
    by_cases he : (r, c) = p
    · subst he
      simp [hp]
    · simp [he]

/-- Where no cell is listed twice, the collision is that of the cells as they were before. -/
theorem collision_flipCells {cells : List (Fin 32 × Fin 64)} (hnodup : cells.Nodup) (acc : Grid × Bool) :
    (flipCells acc cells).2 = true ↔ acc.2 = true ∨ ∃ p ∈ cells, acc.1.pixel p.1 p.2 = true := by
  induction cells generalizing acc with
  | nil => simp [flipCells]
  | cons p cells ih =>
    obtain ⟨hp, hrest⟩ := List.nodup_cons.mp hnodup
    have hkept : ∀ q ∈ cells, (flipPixel acc.1 p.1 p.2).pixel q.1 q.2 = acc.1.pixel q.1 q.2 := fun q hq => by
      rw [Grid.pixel_flipPixel, if_neg fun (e : q = p) => hp (e ▸ hq)]
    rw [flipCells_cons, ih hrest, Bool.or_eq_true, List.exists_mem_cons_iff, or_assoc]
    exact or_congr_right (or_congr_right (exists_congr fun q => and_congr_right fun hq => by rw [hkept q hq]))

/-! ## The cells of a sprite -/

/-- The cells that the set bits of one sprite row meet (R175). -/
def rowCells (x0 y : Nat) (row : Byte) : List (Fin 32 × Fin 64) :=
  ((List.range 8).filter fun b => row.getLsbD (7 - b)).map fun b => (rowOf y, colOf (x0 + b))

/-- The cells that the set bits of sprite rows from y down meet. -/
def spriteCells (x0 y : Nat) (rows : List Byte) : List (Fin 32 × Fin 64) :=
  match rows with
  | [] => []
  | row :: rest => rowCells x0 y row ++ spriteCells x0 (y + 1) rest

theorem drawRow_eq (acc : Grid × Bool) (x0 y : Nat) (row : Byte) :
    drawRow acc x0 y row = flipCells acc (rowCells x0 y row) := by
  rw [flipCells, rowCells, List.foldl_map, List.foldl_filter]
  rfl

theorem drawRows_eq (acc : Grid × Bool) (x0 y : Nat) (rows : List Byte) :
    drawRows acc x0 y rows = flipCells acc (spriteCells x0 y rows) := by
  induction rows generalizing acc y with
  | nil => rfl
  | cons row rest ih => rw [drawRows, ih, drawRow_eq, spriteCells, flipCells, flipCells, flipCells, List.foldl_append]

/-- The draw function flips the sprite's cells (R170). -/
theorem draw_eq (g : Grid) (x0 y0 : Byte) (rows : List Byte) :
    draw g x0 y0 rows = flipCells (g, false) (spriteCells x0.toNat y0.toNat rows) := drawRows_eq _ _ _ _

theorem mem_rowCells {x0 y : Nat} {row : Byte} {r : Fin 32} {c : Fin 64} :
    (r, c) ∈ rowCells x0 y row ↔
      ∃ b < 8, y % 32 = r.val ∧ (x0 + b) % 64 = c.val ∧ row.getLsbD (7 - b) = true := by
  simp only [rowCells, List.mem_map, List.mem_filter, List.mem_range, Prod.mk.injEq, rowOf, colOf, Fin.ext_iff]
  exact exists_congr fun b => by tauto

/-- The sprite's cells are those that the statements speak of. -/
theorem mem_spriteCells {x0 y : Nat} {rows : List Byte} {r : Fin 32} {c : Fin 64} :
    (r, c) ∈ spriteCells x0 y rows ↔ ∃ k b : Nat, k < rows.length ∧ b < 8 ∧ (y + k) % 32 = r.val ∧
      (x0 + b) % 64 = c.val ∧ (rows.getD k 0).getLsbD (7 - b) = true := by
  induction rows generalizing y with
  | nil => simp [spriteCells]
  | cons row rest ih =>
    rw [spriteCells, List.mem_append, mem_rowCells, ih]
    constructor
    · rintro (⟨b, hb, hr, hc, hbit⟩ | ⟨k, b, hk, hb, hr, hc, hbit⟩)
      · exact ⟨0, b, Nat.succ_pos _, hb, hr, hc, hbit⟩
      · exact ⟨k + 1, b, Nat.succ_lt_succ hk, hb, by rw [← hr]; congr 1; omega, hc, hbit⟩
    · rintro ⟨_ | k, b, hk, hb, hr, hc, hbit⟩
      · exact .inl ⟨b, hb, hr, hc, hbit⟩
      · exact .inr ⟨k, b, Nat.lt_of_succ_lt_succ hk, hb, by rw [← hr]; congr 1; omega, hc, hbit⟩

theorem mem_spriteCells_iff_covers {x0 y0 : Byte} {rows : List Byte} {r : Fin 32} {c : Fin 64} :
    (r, c) ∈ spriteCells x0.toNat y0.toNat rows ↔ spriteCovers x0 y0 rows r c := mem_spriteCells

/-- Eight columns from any start are different modulo 64. -/
theorem rowCells_nodup (x0 y : Nat) (row : Byte) : (rowCells x0 y row).Nodup := by
  refine List.Nodup.map_on (fun b hb d hd he => ?_) (List.nodup_range.filter _)
  have hb8 : b < 8 := List.mem_range.mp (List.mem_of_mem_filter hb)
  have hd8 : d < 8 := List.mem_range.mp (List.mem_of_mem_filter hd)
  have hcol : (x0 + b) % 64 = (x0 + d) % 64 := congrArg (fun p => p.2.val) he
  omega

/-- At most 32 rows from any start are different modulo 32, so no cell is met twice. -/
theorem spriteCells_nodup (x0 y : Nat) {rows : List Byte} (h : rows.length ≤ 32) : (spriteCells x0 y rows).Nodup := by
  induction rows generalizing y with
  | nil => exact List.nodup_nil
  | cons row rest ih =>
    rw [List.length_cons] at h
    refine List.nodup_append.mpr ⟨rowCells_nodup x0 y row, ih (y + 1) (by omega), ?_⟩
    rintro ⟨r, c⟩ hrow _ hrest rfl
    obtain ⟨_, _, hr, _⟩ := mem_rowCells.mp hrow
    obtain ⟨k, _, hk, _, hr', _⟩ := mem_spriteCells.mp hrest
    omega

/-! ## The draw function (R170) on the cells of a sprite -/

section
variable {g : Grid} {x0 y0 : Byte} {rows : List Byte} {r : Fin 32} {c : Fin 64}

theorem pixel_draw_of_covers (hlen : rows.length ≤ 32) (h : spriteCovers x0 y0 rows r c) :
    (draw g x0 y0 rows).1.pixel r c = !g.pixel r c := by
  rw [draw_eq, pixel_flipCells (spriteCells_nodup _ _ hlen), if_pos (mem_spriteCells_iff_covers.mpr h)]

theorem pixel_draw_of_not_covers (hlen : rows.length ≤ 32) (h : ¬ spriteCovers x0 y0 rows r c) :
    (draw g x0 y0 rows).1.pixel r c = g.pixel r c := by
  rw [draw_eq, pixel_flipCells (spriteCells_nodup _ _ hlen), if_neg (mt mem_spriteCells_iff_covers.mp h)]

theorem draw_collides_iff (hlen : rows.length ≤ 32) :
    (draw g x0 y0 rows).2 = true ↔ ∃ r c, g.pixel r c = true ∧ spriteCovers x0 y0 rows r c := by
  rw [draw_eq, collision_flipCells (spriteCells_nodup _ _ hlen)]
  simp only [Bool.false_eq_true, false_or, Prod.exists, mem_spriteCells_iff_covers, and_comm]

/-- Only the zero byte has no set bit. -/
theorem byte_ne_zero_iff {row : Byte} : row ≠ 0 ↔ ∃ b < 8, row.getLsbD (7 - b) = true := by
  constructor
  · intro hne
    by_contra hnone
    push Not at hnone
    refine hne (BitVec.eq_of_getLsbD_eq fun j hj => ?_)
    have hbit := hnone (7 - j) (by omega)
    rw [show 7 - (7 - j) = j by omega] at hbit
    simpa using hbit
  · rintro ⟨b, _, hbit⟩ rfl
    simp at hbit

/-- A sprite meets a cell exactly when some row of it has a set bit. -/
theorem exists_spriteCovers_iff : (∃ r c, spriteCovers x0 y0 rows r c) ↔ ∃ row ∈ rows, row ≠ 0 := by
  constructor
  · rintro ⟨r, c, k, b, hk, hb, _, _, hbit⟩
    rw [List.getD_eq_getElem _ _ hk] at hbit
    exact ⟨rows[k], List.getElem_mem hk, byte_ne_zero_iff.mpr ⟨b, hb, hbit⟩⟩
  · rintro ⟨row, hrow, hne⟩
    obtain ⟨k, hk, rfl⟩ := List.getElem_of_mem hrow
    obtain ⟨b, hb, hbit⟩ := byte_ne_zero_iff.mp hne
    exact ⟨rowOf (y0.toNat + k), colOf (x0.toNat + b), k, b, hk, hb, rfl, rfl,
      by rwa [List.getD_eq_getElem _ _ hk]⟩

end

/-! ## The statements -/

/-- Settles O28: the second draw flips the cells of the first again, and finds them as the first left them. -/
theorem drawTwiceRestoresTheGrid : Obligations.DrawTwiceRestoresTheGrid := by
  intro g x0 y0 rows hlen
  have hlen32 : rows.length ≤ 32 := by omega
  have hcollides : (draw (draw g x0 y0 rows).1 x0 y0 rows).2 = true ↔
      ∃ r c, g.pixel r c = false ∧ spriteCovers x0 y0 rows r c := by
    rw [draw_collides_iff hlen32]
    refine exists_congr fun r => exists_congr fun c => and_congr_left fun hcovers => ?_
    rw [pixel_draw_of_covers hlen32 hcovers, Bool.not_eq_true']
  refine ⟨Grid.ext_pixel fun r c => ?_, hcollides, ?_⟩
  · by_cases hcovers : spriteCovers x0 y0 rows r c
    · rw [pixel_draw_of_covers hlen32 hcovers, pixel_draw_of_covers hlen32 hcovers, Bool.not_not]
    · rw [pixel_draw_of_not_covers hlen32 hcovers, pixel_draw_of_not_covers hlen32 hcovers]
  · rintro rfl
    simp only [hcollides, Grid.pixel_blank, true_and, exists_spriteCovers_iff]

theorem rowOf_congr {y y' : Nat} (h : y % 32 = y' % 32) : rowOf y = rowOf y' := Fin.ext h

theorem colOf_congr {x x' : Nat} (h : x % 64 = x' % 64) : colOf x = colOf x' := Fin.ext h

/-- The cells of a sprite depend on the start coordinates only modulo the grid's size. -/
theorem spriteCells_congr {x x' y y' : Nat} (hx : x % 64 = x' % 64) (hy : y % 32 = y' % 32) (rows : List Byte) :
    spriteCells x y rows = spriteCells x' y' rows := by
  induction rows generalizing y y' with
  | nil => rfl
  | cons row rest ih =>
    have hcol : ∀ b, colOf (x + b) = colOf (x' + b) := fun b => colOf_congr (Nat.ModEq.add_right b hx)
    have hnext : (y + 1) % 32 = (y' + 1) % 32 := Nat.ModEq.add_right 1 hy
    simp only [spriteCells, rowCells, rowOf_congr hy, hcol, ih hnext]

/-- Settles O29: the draws flip the same cells in the same order. -/
theorem drawWrapsItsStartCoordinates : Obligations.DrawWrapsItsStartCoordinates := by
  intro g x0 y0 x1 y1 rows hx hy
  rw [draw_eq, draw_eq, spriteCells_congr hx hy]

theorem exec_drw_inside (x y : Nibble) {n : Nibble} {s : State} (h : n = 0 ∨ s.i.toNat + n.toNat ≤ 0x1000) :
    exec (.drw x y n) s =
      completeNext ((s.setDisplay (draw s.grid (s.getV x) (s.getV y) (s.readBytes s.i.toNat n.toNat)).1).setV regF
        (flagByte (draw s.grid (s.getV x) (s.getV y) (s.readBytes s.i.toNat n.toNat)).2)) := by
  rcases s.memRead_cases s.i n.toNat with ⟨hpos, hout, _⟩ | ⟨_, hok⟩
  · rcases h with rfl | hin
    · exact absurd hpos (Nat.lt_irrefl 0)
    · simp only [memSize] at hout
      omega
  · rw [exec, execDrw, hok]
    rfl

theorem flagByte_eq_one_iff {f : Bool} : flagByte f = 0x01 ↔ f = true := by
  cases f <;> decide

theorem flagByte_eq_zero_or_one (f : Bool) : flagByte f = 0x00 ∨ flagByte f = 0x01 := by
  cases f <;> decide

/-- NEXT after a new display and then a flag in VF. -/
theorem completeNext_setDisplay_setFlag (s : State) (g : Grid) (f : Bool) :
    ∃ t, completeNext ((s.setDisplay g).setV regF (flagByte f)) = .next t ∧ t.grid = g ∧ t.getV 0xF = flagByte f ∧
      t.redraw = true ∧ t.pc = s.pc + 2 ∧ CycleEnds s t ∧ Frame s t [0xF] [.display] := by
  have hframe : Frame s ((s.setDisplay g).setV regF (flagByte f)) [0xF] [.display] :=
    ((Frame.refl s _ _).setDisplay (List.mem_singleton_self _) g).setV (List.mem_singleton_self _) _
  exact ⟨_, rfl, rfl, State.getV_setV_same _ regF _, rfl, rfl, cycleEnds_completed rfl rfl, hframe.advance.completed⟩

/-- Settles O26: the display is that of the draw function on the n bytes at I, and VF its collision. -/
theorem drawSprite : Obligations.DrawSprite := by
  intro x y n s
  refine ⟨decodeWord_drw x y n, fun hin => ?_⟩
  have hn := n.isLt
  have hlen := State.length_readBytes s s.i.toNat n.toNat
  have hlen32 : (s.readBytes s.i.toNat n.toNat).length ≤ 32 := by omega
  obtain ⟨t, hexec, hgrid, hflag, hrest⟩ := completeNext_setDisplay_setFlag s
    (draw s.grid (s.getV x) (s.getV y) (s.readBytes s.i.toNat n.toNat)).1
    (draw s.grid (s.getV x) (s.getV y) (s.readBytes s.i.toNat n.toNat)).2
  refine ⟨t, s.readBytes s.i.toNat n.toNat, (exec_drw_inside x y hin).trans hexec, hlen,
    fun j hj => State.getD_readBytes s _ _ j hj, fun r c hcovers => ?_, fun r c hcovers => ?_, ?_, ?_, hrest⟩
  · rw [hgrid, pixel_draw_of_covers hlen32 hcovers]
  · rw [hgrid, pixel_draw_of_not_covers hlen32 hcovers]
  · rw [hflag]
    exact flagByte_eq_zero_or_one _
  · rw [hflag, flagByte_eq_one_iff, draw_collides_iff hlen32]

end Sys2Proof.Machine
end

section
/-! What an instruction can write: 10_state.md table S1, said once and for every instruction. -/

namespace Sys2Proof.Machine

/-- The general registers that an instruction may write, as a list (10_state.md table S1, R21). -/
def regsWritten (c : Config) (i : Instr) : List Nibble :=
  match i with
  | .ldVK x _ | .addVK x _ | .ldVV x _ | .rnd x _ | .ldVDT x | .ldVKey x => [x]
  | .orVV x _ | .andVV x _ | .xorVV x _ => if c.logicVfReset then [x, 0xF] else [x]
  | .addVV x _ | .sub x _ | .shr x _ | .subn x _ | .shl x _ => [x, 0xF]
  | .drw _ _ _ => [0xF]
  | .ldVMem x => (List.range (x.toNat + 1)).map (BitVec.ofNat 4)
  | _ => []

/-- The pieces of state that an instruction may write (10_state.md table S1). -/
def partsWritten (i : Instr) : List Part :=
  match i with
  | .cls | .drw _ _ _ => [.display]
  | .ret | .call _ => [.stack]
  | .ldI _ | .addIV _ | .ldFV _ => [.index]
  | .rnd _ _ => [.rand]
  | .ldDTV _ => [.delayTimer]
  | .ldSTV _ => [.soundTimer]
  | .ldBV _ | .ldMemV _ => [.memory]
  | _ => []

/-- How an instruction ends: a fault or WAIT in s, or NEXT in a state that differs from s only in what it may write. -/
inductive WritesOnly (i : Instr) (s : State) : Result → Prop where
  | raised (f : FaultInfo) : WritesOnly i s (raise i f s)
  | waited : WritesOnly i s (wait s)
  | completed (u : State) (hframe : Frame s u (regsWritten s.config i) (partsWritten i)) (hfault : u.fault = s.fault)
      (hmem : Part.memory ∉ partsWritten i → u.mem = s.mem) : WritesOnly i s (complete u)

variable {i : Instr} {s u t : State} {x : Nibble} {regs : List Nibble} {parts : List Part}

/-! ## The shared operations -/

theorem Frame.writeAlu {o : AluOut} (h : Frame s u regs parts) (hx : x ∈ regs) (hflag : o.flagWe = true → regF ∈ regs) :
    Frame s (u.writeAlu x o) regs parts := by
  rw [State.writeAlu]
  split
  next hwe => exact (h.setV hx _).setV (hflag hwe) _
  next => exact h.setV hx _

@[simp] theorem State.writeAlu_mem (s : State) (x : Nibble) (o : AluOut) : (s.writeAlu x o).mem = s.mem := by
  rw [State.writeAlu_eq]

@[simp] theorem State.writeAlu_fault (s : State) (x : Nibble) (o : AluOut) : (s.writeAlu x o).fault = s.fault := by
  rw [State.writeAlu_eq]

@[simp] theorem State.loadRegs_mem (s : State) (k : Nat) (vals : List Byte) : (s.loadRegs k vals).mem = s.mem := by
  rw [State.loadRegs_eq]

@[simp] theorem State.sampleRand_mem (s : State) : s.sampleRand.2.mem = s.mem := by
  rcases s.sampleRand_cases with ⟨b, rest, _, h⟩ | ⟨_, h⟩ <;> rw [h]

theorem completeNext_writesOnly (hframe : Frame s u (regsWritten s.config i) (partsWritten i))
    (hfault : u.fault = s.fault) (hmem : Part.memory ∉ partsWritten i → u.mem = s.mem) :
    WritesOnly i s (completeNext u) :=
  .completed u.advance hframe.advance hfault hmem

theorem complete_jump_writesOnly (i : Instr) (s : State) (target : Word) : WritesOnly i s (complete (s.jump target)) :=
  .completed _ ((Frame.refl s _ _).jump target) rfl fun _ => rfl

theorem setV_writesOnly (hx : x ∈ regsWritten s.config i) (b : Byte) : WritesOnly i s (completeNext (s.setV x b)) :=
  completeNext_writesOnly ((Frame.refl s _ _).setV hx b) rfl fun _ => rfl

theorem setI_writesOnly (hindex : Part.index ∈ partsWritten i) (a : Word) : WritesOnly i s (completeNext (s.setI a)) :=
  completeNext_writesOnly ((Frame.refl s _ _).setI hindex a) rfl fun _ => rfl

theorem aluInstr_writesOnly {fn : AluFn} {a b : Byte} (hx : x ∈ regsWritten s.config i)
    (hflag : (alu s.config.logicVfReset fn a b).flagWe = true → regF ∈ regsWritten s.config i) :
    WritesOnly i s (aluInstr fn x a b s) :=
  completeNext_writesOnly ((Frame.refl s _ _).writeAlu hx hflag) (State.writeAlu_fault _ _ _)
    fun _ => State.writeAlu_mem _ _ _

theorem skipOnKey_writesOnly (pressed : Bool) : WritesOnly i s (skipOnKey i x pressed s) := by
  rw [skipOnKey]
  split
  · exact .raised _
  · exact complete_jump_writesOnly i s _

theorem storeAtI_writesOnly (hmemory : Part.memory ∈ partsWritten i) (bytes : List Byte) :
    WritesOnly i s (storeAtI i bytes s) := by
  rcases storeAtI_cases i bytes s with ⟨f, h⟩ | ⟨_, _, h⟩ <;> rw [h]
  · exact .raised f
  · exact completeNext_writesOnly ((Frame.refl s _ _).storeBytes hmemory _ _) rfl (absurd hmemory)

/-! ## The handlers with more than one end of their own -/

theorem execRet_writesOnly (s : State) : WritesOnly .ret s (execRet s) := by
  rcases Nat.eq_zero_or_pos s.sp.val with h | h
  · rw [execRet_of_empty h]
    exact .raised _
  · rw [execRet_of_pos h]
    exact .completed _ ((frame_setSp s _).jump _) rfl fun _ => rfl

theorem execCall_writesOnly (nnn : Addr) (s : State) : WritesOnly (.call nnn) s (execCall nnn s) := by
  rcases Nat.lt_or_ge s.sp.val 16 with h | h
  · rw [execCall_of_free nnn h]
    exact .completed _ ((frame_setStack s _ _).jump _) rfl fun _ => rfl
  · rw [execCall_of_full nnn (by omega)]
    exact .raised _

theorem execDrw_writesOnly (x y n : Nibble) (s : State) : WritesOnly (.drw x y n) s (execDrw x y n s) := by
  rw [execDrw]
  split
  · exact .raised _
  · exact completeNext_writesOnly (((Frame.refl s _ _).setDisplay (List.mem_singleton_self _) _).setV
      (List.mem_singleton_self regF) _) rfl fun _ => rfl

theorem execLdFV_writesOnly (x : Nibble) (s : State) : WritesOnly (.ldFV x) s (execLdFV x s) := by
  rw [execLdFV]
  split
  · exact .raised _
  · exact setI_writesOnly (List.mem_singleton_self _) _

theorem execLdVKey_writesOnly (x : Nibble) (s : State) : WritesOnly (.ldVKey x) s (execLdVKey x s) := by
  rw [execLdVKey]
  split
  · exact .waited
  · exact setV_writesOnly (List.mem_singleton_self x) _

theorem execRnd_writesOnly (x : Nibble) (kk : Byte) (s : State) : WritesOnly (.rnd x kk) s (execRnd x kk s) :=
  completeNext_writesOnly ((frame_sampleRand s [x]).setV (List.mem_singleton_self x) _) s.sampleRand_fault
    fun _ => s.sampleRand_mem

theorem execLdVMem_writesOnly (x : Nibble) (s : State) : WritesOnly (.ldVMem x) s (execLdVMem x s) := by
  rcases Nat.lt_or_ge 0xFFF (s.i.toNat + x.toNat) with h | h
  · rw [execLdVMem_outside h]
    exact .raised _
  · rw [execLdVMem_inside h]
    exact completeNext_writesOnly (frame_loadRegs_readBytes s _ x) (State.loadRegs_fault _ _ _)
      fun _ => State.loadRegs_mem _ _ _

/-- A bitwise operation writes VF exactly where LOGIC_VF_RESET lists it. -/
theorem logic_writesOnly {fn : AluFn} {a b : Byte}
    (hregs : regsWritten s.config i = if s.config.logicVfReset then [x, 0xF] else [x])
    (hwe : (alu s.config.logicVfReset fn a b).flagWe = s.config.logicVfReset) :
    WritesOnly i s (aluInstr fn x a b s) := by
  refine aluInstr_writesOnly ?_ fun hflag => ?_
  · rw [hregs]
    split <;> exact List.mem_cons_self
  · rw [hregs, if_pos (hwe.symm.trans hflag)]
    exact List.mem_cons_of_mem _ List.mem_cons_self

/-- Every instruction writes only what table S1 lists for it. -/
theorem exec_writesOnly (i : Instr) (s : State) : WritesOnly i s (exec i s) := by
  cases i with
  | cls => exact completeNext_writesOnly ((Frame.refl s _ _).setDisplay (List.mem_singleton_self _) _) rfl fun _ => rfl
  | ret => exact execRet_writesOnly s
  | call nnn => exact execCall_writesOnly nnn s
  | jp | jpV0 | seVK | sneVK | seVV | sneVV => exact complete_jump_writesOnly _ s _
  | skp | sknp => exact skipOnKey_writesOnly _
  | ldVK | ldVDT => exact setV_writesOnly List.mem_cons_self _
  | addVK | ldVV => exact aluInstr_writesOnly List.mem_cons_self nofun
  | orVV | andVV | xorVV => exact logic_writesOnly rfl rfl
  | addVV | sub | shr | subn | shl =>
    exact aluInstr_writesOnly List.mem_cons_self fun _ => List.mem_cons_of_mem _ List.mem_cons_self
  | ldI | addIV => exact setI_writesOnly List.mem_cons_self _
  | ldFV x => exact execLdFV_writesOnly x s
  | rnd x kk => exact execRnd_writesOnly x kk s
  | drw x y n => exact execDrw_writesOnly x y n s
  | ldVKey x => exact execLdVKey_writesOnly x s
  | ldDTV => exact completeNext_writesOnly ((Frame.refl s _ _).setDT List.mem_cons_self _) rfl fun _ => rfl
  | ldSTV => exact completeNext_writesOnly ((Frame.refl s _ _).setST List.mem_cons_self _) rfl fun _ => rfl
  | ldBV | ldMemV => exact storeAtI_writesOnly List.mem_cons_self _
  | ldVMem x => exact execLdVMem_writesOnly x s

/-! ## What follows of the next state -/

/-- Every instruction answers a next state. -/
theorem exec_next (i : Instr) (s : State) : ∃ t, exec i s = .next t := by
  have hw := exec_writesOnly i s
  generalize exec i s = answer at hw
  cases hw <;> exact ⟨_, rfl⟩

theorem frame_of_exec (h : exec i s = .next t) : Frame s t (regsWritten s.config i) (partsWritten i) := by
  have hw := exec_writesOnly i s
  rw [h] at hw
  cases hw with
  | raised f => exact { Frame.refl s _ _ with }
  | waited => exact { Frame.refl s _ _ with }
  | completed u hframe => exact hframe.completed

theorem mem_of_exec (h : exec i s = .next t) (hmemory : Part.memory ∉ partsWritten i) : t.mem = s.mem := by
  have hw := exec_writesOnly i s
  rw [h] at hw
  cases hw with
  | raised f => rfl
  | waited => rfl
  | completed u _ _ hmem => exact hmem hmemory

/-- An instruction takes a fault and writes nothing else, or ends its cycle by sampling the keypad. -/
theorem exec_next_cases (h : exec i s = .next t) :
    (∃ f, t = s.faulted (some (encode i)) f) ∨ (t.status ≠ .faulted ∧ t.kprev = s.keys ∧ t.fault = s.fault) := by
  have hw := exec_writesOnly i s
  rw [h] at hw
  cases hw with
  | raised f => exact .inl ⟨f, rfl⟩
  | waited => exact .inr ⟨nofun, rfl, rfl⟩
  | completed u hframe hfault => exact .inr ⟨nofun, hframe.keys_same, hfault⟩

end Sys2Proof.Machine
end

section
/-! The family 10_state.md: table S1 for every instruction, and the region below 0x200 (20_memory.md). -/

namespace Sys2Proof.Machine

variable {i : Instr} {s t : State} {r : Nibble}

/-! ## The lists of table S1 read back -/

theorem mayWriteReg_of_mem {c : Config} (h : r ∈ regsWritten c i) : mayWriteReg c i r := by
  cases i with
  | ldVK | addVK | ldVV | rnd | ldVDT | ldVKey | drw => exact List.mem_singleton.mp h
  | orVV | andVV | xorVV =>
    simp only [regsWritten] at h
    split at h
    next hreset => exact (List.mem_pair.mp h).imp_right fun he => ⟨hreset, he⟩
    next => exact .inl (List.mem_singleton.mp h)
  | addVV | sub | shr | subn | shl => exact List.mem_pair.mp h
  | ldVMem x =>
    obtain ⟨j, hj, rfl⟩ := List.mem_map.mp h
    have hle : j ≤ x.toNat := Nat.lt_succ_iff.mp (List.mem_range.mp hj)
    exact (BitVec.toNat_ofNat j 4).trans_le ((Nat.mod_le j _).trans hle)
  | _ => exact absurd h List.not_mem_nil

theorem display_mem_partsWritten (h : Part.display ∈ partsWritten i) : i = .cls ∨ ∃ x y n, i = .drw x y n := by
  cases i with
  | cls => exact .inl rfl
  | drw x y n => exact .inr ⟨x, y, n, rfl⟩
  | _ => simp [partsWritten] at h

theorem stack_mem_partsWritten (h : Part.stack ∈ partsWritten i) : i = .ret ∨ ∃ nnn, i = .call nnn := by
  cases i with
  | ret => exact .inl rfl
  | call nnn => exact .inr ⟨nnn, rfl⟩
  | _ => simp [partsWritten] at h

theorem index_mem_partsWritten (h : Part.index ∈ partsWritten i) :
    (∃ nnn, i = .ldI nnn) ∨ ∃ x, i = .addIV x ∨ i = .ldFV x := by
  cases i with
  | ldI nnn => exact .inl ⟨nnn, rfl⟩
  | addIV x => exact .inr ⟨x, .inl rfl⟩
  | ldFV x => exact .inr ⟨x, .inr rfl⟩
  | _ => simp [partsWritten] at h

theorem rand_mem_partsWritten (h : Part.rand ∈ partsWritten i) : ∃ x kk, i = .rnd x kk := by
  cases i with
  | rnd x kk => exact ⟨x, kk, rfl⟩
  | _ => simp [partsWritten] at h

theorem delayTimer_mem_partsWritten (h : Part.delayTimer ∈ partsWritten i) : ∃ x, i = .ldDTV x := by
  cases i with
  | ldDTV x => exact ⟨x, rfl⟩
  | _ => simp [partsWritten] at h

theorem soundTimer_mem_partsWritten (h : Part.soundTimer ∈ partsWritten i) : ∃ x, i = .ldSTV x := by
  cases i with
  | ldSTV x => exact ⟨x, rfl⟩
  | _ => simp [partsWritten] at h

theorem memory_mem_partsWritten (h : Part.memory ∈ partsWritten i) : ∃ x, i = .ldBV x ∨ i = .ldMemV x := by
  cases i with
  | ldBV x => exact ⟨x, .inl rfl⟩
  | ldMemV x => exact ⟨x, .inr rfl⟩
  | _ => simp [partsWritten] at h

/-- A return writes no entry, and moves SP down or leaves it (R121). -/
theorem stack_of_exec_ret (h : exec .ret s = .next t) : t.stack = s.stack ∧ t.sp.val ≤ s.sp.val := by
  obtain ⟨hpop, hunderflow⟩ := returnPopsOrUnderflows.2 s
  rcases Nat.eq_zero_or_pos s.sp.val with hsp | hsp
  · obtain ⟨t', hexec, htook⟩ := hunderflow hsp
    cases hexec.symm.trans h
    rw [TookFault] at htook
    rw [htook]
    exact ⟨rfl, Nat.le_refl _⟩
  · obtain ⟨t', hexec, htsp, _, hstack, _⟩ := hpop hsp
    cases hexec.symm.trans h
    exact ⟨hstack, by omega⟩

/-- Settles O48: the frame of every instruction, each of its lists read back as the instructions that write the piece. -/
theorem onlyTheListedInstructionsWrite : Obligations.OnlyTheListedInstructionsWrite := by
  intro i s t hexec
  have hframe := frame_of_exec hexec
  refine ⟨fun r hne => ?regs, fun ⟨a, hne⟩ => ?memory, fun hne => ?index, fun hne => ?sp, fun hne => ?stack,
    fun hne => ?dt, fun hne => ?st, fun hne => ?display, fun hne => ?rand, hframe.keys_same, hframe.config_same,
    hframe.inputs_same⟩
  case regs => exact mayWriteReg_of_mem (Not.imp_symm (hframe.regs_same r) hne)
  case memory => exact memory_mem_partsWritten (Not.imp_symm (fun hp => hframe.memory_same hp a) hne)
  case index => exact index_mem_partsWritten (Not.imp_symm hframe.index_same hne)
  case sp => exact stack_mem_partsWritten (Not.imp_symm hframe.sp_same hne)
  case stack =>
    refine (stack_mem_partsWritten (Not.imp_symm hframe.stack_same hne)).resolve_left ?_
    rintro rfl
    exact hne (stack_of_exec_ret hexec).1
  case dt => exact delayTimer_mem_partsWritten (Not.imp_symm hframe.dt_same hne)
  case st => exact soundTimer_mem_partsWritten (Not.imp_symm hframe.st_same hne)
  case display =>
    exact display_mem_partsWritten (hne.elim (Not.imp_symm hframe.grid_same) (Not.imp_symm hframe.redraw_same))
  case rand => exact rand_mem_partsWritten (hne.elim (Not.imp_symm hframe.randIn_same) (Not.imp_symm hframe.draws_same))

/-! ## Memory -/

/-- The two instructions that write memory store some bytes at I. -/
theorem exec_eq_storeAtI (h : Part.memory ∈ partsWritten i) (s : State) : ∃ bytes, exec i s = storeAtI i bytes s := by
  obtain ⟨x, rfl | rfl⟩ := memory_mem_partsWritten h
  · exact ⟨_, exec_ldBV x s⟩
  · exact ⟨_, exec_ldMemV x s⟩

/-- Memory after an instruction: as before, or with bytes stored in a range that has passed both checks (R65). -/
theorem mem_of_exec_cases (h : exec i s = .next t) :
    t.mem = s.mem ∨ ∃ bytes, t.mem = memPutBytes s.config.fontBase s.mem s.i.toNat bytes ∧
      s.i.toNat + bytes.length ≤ memSize ∧ (s.config.reservedWrite = .perform ∨ reservedEnd ≤ s.i.toNat) := by
  by_cases hmemory : Part.memory ∈ partsWritten i
  · obtain ⟨bytes, hstore⟩ := exec_eq_storeAtI hmemory s
    rw [hstore] at h
    rcases storeAtI_cases i bytes s with ⟨f, hraise⟩ | ⟨hin, hallowed, hok⟩
    · cases hraise.symm.trans h
      exact .inl rfl
    · cases hok.symm.trans h
      rcases Nat.eq_zero_or_pos bytes.length with hempty | hpos
      · obtain rfl := List.eq_nil_of_length_eq_zero hempty
        exact .inl rfl
      · exact .inr ⟨bytes, rfl, hin.resolve_left (by omega),
          hallowed.imp_right fun hor => hor.resolve_left (by omega)⟩
  · exact .inl (mem_of_exec h hmemory)

/-- Settles O49: under FAULT a store that is made starts at 0x200 or above. -/
theorem reservedRegionIsNeverWritten : Obligations.ReservedRegionIsNeverWritten := by
  intro i s t a hpolicy hexec ha
  have hconfig := (frame_of_exec hexec).config_same
  rcases mem_of_exec_cases hexec with hmem | ⟨bytes, hmem, _, hperform | hhigh⟩
  · exact State.readByte_congr hmem hconfig a
  · exact nomatch hpolicy.symm.trans hperform
  · simp only [reservedEnd] at hhigh
    rw [State.readByte, hmem, hconfig, memByte_memPutBytes_outside _ _ _ _ _ (.inl (by omega)), State.readByte]

/-- A store inside memory keeps the canonical form. -/
theorem memoryCanonical_of_exec (h : exec i s = .next t) (hs : memoryCanonical s) : memoryCanonical t := by
  rw [memoryCanonical, (frame_of_exec h).config_same]
  rcases mem_of_exec_cases h with hmem | ⟨bytes, hmem, hin, _⟩ <;> rw [hmem]
  · exact hs
  · exact memPutBytes_wf bytes hs hin

end Sys2Proof.Machine
end

section
/-! The family 40_execution_engine.md: the instruction that a step runs, and how a cycle ends. -/

namespace Sys2Proof.Machine

variable {i : Instr} {s t : State} {w : Word}

/-! ## The decoded instruction -/

theorem cycle_of_valid (hs : s.status ≠ .faulted) (hf : s.fetchWord = .ok w) (hi : decodeWord w = some i) :
    cycle s = exec i s := by
  simp [cycle, hs, hf, hi]

/-- An engine that is not FAULTED runs the instruction that the two bytes at pc decode to. -/
theorem cycle_of_bytes (hs : s.status ≠ .faulted) (hpc : s.pc.toNat ≤ 0xFFE)
    (hi : decodeWord (s.readByte s.pc.toNat ++ s.readByte (s.pc.toNat + 1)) = some i) : cycle s = exec i s :=
  cycle_of_valid hs (fetchWord_inside hpc) hi

/-- Settles O41: the step by the next host event, and then the cycle by the two bytes at pc. -/
theorem stepRunsTheDecodedInstruction : Obligations.StepRunsTheDecodedInstruction := by
  intro s
  have hstep : ∀ rest, s.inputs = .step :: rest → step s = cycle { s with inputs := rest } := fun _ h => step_event h
  refine ⟨step_no_event, hstep, fun i hs hpc hi => ⟨fun hnone => ?_, fun rest hlisted => ?_⟩⟩
  · rw [step_no_event hnone, cycle_of_bytes hs hpc hi]
  · rw [hstep rest hlisted]
    exact cycle_of_bytes (s := { s with inputs := rest }) hs hpc hi

/-! ## A word placed for the fetch -/

theorem State.readyToFetch_status (s : State) : s.readyToFetch.status ≠ .faulted := by
  simp only [State.readyToFetch]
  split
  · nofun
  · assumption

theorem State.readyToFetch_pc (s : State) : s.readyToFetch.pc.toNat ≤ 0xFFE := by
  simp only [State.readyToFetch]
  split
  · assumption
  · decide

/-- The two bytes at pc of a state with a word placed form that word. -/
theorem wordOfBytes_placeWord (s : State) (w : Word) :
    wordOfBytes ((s.placeWord w).readByte (s.placeWord w).pc.toNat)
      ((s.placeWord w).readByte ((s.placeWord w).pc.toNat + 1)) = w := by
  have hhi : (s.placeWord w).readByte s.readyToFetch.pc.toNat = hiByte w := by
    rw [State.placeWord, State.readByte_storeBytes, if_pos ⟨Nat.le_refl _, Nat.lt_add_of_pos_right (Nat.succ_pos _)⟩,
      Nat.sub_self]
    rfl
  have hlo : (s.placeWord w).readByte (s.readyToFetch.pc.toNat + 1) = loByte w := by
    rw [State.placeWord, State.readByte_storeBytes, if_pos ⟨Nat.le_succ _, Nat.lt_succ_self _⟩,
      Nat.add_sub_cancel_left]
    rfl
  exact (congrArg₂ wordOfBytes hhi hlo).trans (wordOfBytes_hi_lo w)

/-- An opcode-table word decodes through its two bytes as it does as a word. -/
theorem decodeTableWord_eq (nbits w : Nat) : decodeTableWord nbits w = decodeWord (tableWord nbits w) := by
  simp only [decodeTableWord, decode, wordOfBytes_hi_lo]
  cases decodeWord (tableWord nbits w) <;> rfl

/-- Settles O42: with the word placed no event is listed, the engine is not FAULTED, and the bytes at pc form the word. -/
theorem stepRunsThePlacedWord : Obligations.StepRunsThePlacedWord := by
  intro s w i _ hi
  rw [decodeTableWord_eq, ← wordOfBytes_placeWord s (tableWord 16 w)] at hi
  have hcycle : cycle (s.placeWord (tableWord 16 w)) = exec i (s.placeWord (tableWord 16 w)) :=
    cycle_of_bytes s.readyToFetch_status s.readyToFetch_pc hi
  rw [State.withFetchWord, step_no_event rfl, hcycle]

/-! ## The ends of a cycle -/

/-- Every cycle answers a next state. -/
theorem cycle_next (s : State) : ∃ t, cycle s = .next t := by
  rcases cycle_cases s with ⟨_, h⟩ | ⟨_, _, h⟩ | ⟨w, _, _, _, _, h⟩ | ⟨w, i, _, _, _, _, h⟩
  · exact ⟨_, h⟩
  · exact ⟨_, h⟩
  · exact ⟨_, h⟩
  · rw [h]
    exact exec_next i s

/-- The three ends of a cycle: nothing while FAULTED, an entry to FAULTED, or an instruction that NEXT or WAIT ends. -/
theorem cycle_next_cases (h : cycle s = .next t) :
    (s.status = .faulted ∧ t = s) ∨ (s.status ≠ .faulted ∧ ∃ w f, t = s.faulted w f) ∨
    (s.status ≠ .faulted ∧ t.status ≠ .faulted ∧ t.kprev = s.keys ∧ t.fault = s.fault ∧
      ∃ i, s.pc.toNat ≤ 0xFFE ∧ exec i s = .next t) := by
  rcases cycle_cases s with ⟨hs, hc⟩ | ⟨hs, _, hc⟩ | ⟨w, hs, _, _, _, hc⟩ | ⟨w, i, hs, hpc, _, _, hc⟩ <;> rw [hc] at h
  · cases h
    exact .inl ⟨hs, rfl⟩
  · cases h
    exact .inr (.inl ⟨hs, _, _, rfl⟩)
  · cases h
    exact .inr (.inl ⟨hs, _, _, rfl⟩)
  · rcases exec_next_cases h with ⟨f, ht⟩ | ⟨hready, hkprev, hfault⟩
    · exact .inr (.inl ⟨hs, _, f, ht⟩)
    · simp only [memSize] at hpc
      exact .inr (.inr ⟨hs, hready, hkprev, hfault, i, by omega, h⟩)

/-- Settles O45: a cycle that ends FAULTED is the one that changes nothing, or the entry to FAULTED. -/
theorem faultingCycleChangesOnlyStatusAndRecord : Obligations.FaultingCycleChangesOnlyStatusAndRecord := by
  intro s t hcycle ht
  rcases cycle_next_cases hcycle with ⟨hs, hsame⟩ | ⟨hs, w, f, hfaulted⟩ | ⟨_, hready, _⟩
  · exact ⟨fun _ => hsame, absurd hs⟩
  · exact ⟨fun he => absurd he hs, fun _ => ⟨w, f, hfaulted⟩⟩
  · exact absurd ht hready

/-- Settles O46: a cycle that does not end FAULTED ran an instruction that NEXT or WAIT ended. -/
theorem completedCycleSamplesTheKeypad : Obligations.CompletedCycleSamplesTheKeypad := by
  intro s t hcycle ht
  rcases cycle_next_cases hcycle with ⟨hs, rfl⟩ | ⟨_, w, f, rfl⟩ | ⟨_, _, hkprev, hfault, i, _, hexec⟩
  · exact absurd hs ht
  · exact absurd rfl ht
  · have hframe := frame_of_exec hexec
    exact ⟨hkprev, hframe.keys_same, hframe.config_same, hfault⟩

end Sys2Proof.Machine
end

section
/-! The families 10_state.md and 70_reset_and_hazards.md: the host events, and what every step keeps. -/

namespace Sys2Proof.Machine

variable {s t : State}

/-! ## What a step is, event by event -/

theorem toNat_tickTimer (t : Byte) : (tickTimer t).toNat = t.toNat - 1 := by
  rw [tickTimer]
  split
  next h =>
    subst h
    rfl
  next h =>
    have hpos : 1 ≤ t.toNat := Nat.one_le_iff_ne_zero.mpr fun h0 => h (BitVec.eq_of_toNat_eq h0)
    rw [BitVec.toNat_sub_of_le (show (1 : Byte) ≤ t from hpos)]
    rfl

/-- Settles O50: each of the three events is one update of the state without the event. -/
theorem hostEventsChangeOnlyTheirState : Obligations.HostEventsChangeOnlyTheirState := by
  intro s rest k
  refine ⟨fun htick => ?_, step_event, step_event⟩
  exact ⟨_, step_event htick, toNat_tickTimer s.dt, toNat_tickTimer s.st, rfl⟩

/-- Settles O54: RESET refuses a long image, and every other event answers a next state. -/
theorem onlyALongImageIsRefused : Obligations.OnlyALongImageIsRefused := by
  intro s
  obtain ⟨e, rest, hstep, hevent⟩ := step_cases s
  cases e with
  | step =>
    obtain ⟨t, ht⟩ := cycle_next { s with inputs := rest }
    exact .inl ⟨t, hstep.trans ht⟩
  | tick | setKeys | frameAck => exact .inl ⟨_, hstep⟩
  | reset image =>
    by_cases hwf : imageWellFormed image
    · exact .inl ⟨_, hstep.trans (resetEvent_valid _ hwf)⟩
    · have hlisted : s.inputs = .reset image :: rest := hevent.resolve_left fun h => nomatch h.2.1
      have hrefused : resetEvent image { s with inputs := rest } = .refused (.imageTooLong image.length) := if_neg hwf
      exact .inr ⟨image, rest, hlisted, Nat.lt_of_not_le hwf, hstep.trans hrefused⟩

/-- A step that answers a next state is RESET with a valid image, a cycle, or an event that writes only timers, keys
and redraw; each at the state without the event. -/
theorem step_next_cases (h : step s = .next t) : ∃ rest,
    (∃ image, s.inputs = .reset image :: rest ∧ imageWellFormed image ∧ t = { s with inputs := rest }.resetWith image) ∨
    cycle { s with inputs := rest } = .next t ∨
    t = { s with inputs := rest, dt := t.dt, st := t.st, keys := t.keys, redraw := t.redraw } := by
  obtain ⟨e, rest, hstep, hevent⟩ := step_cases s
  have hanswer := hstep.symm.trans h
  refine ⟨rest, ?_⟩
  cases e with
  | step => exact .inr (.inl hanswer)
  | tick | setKeys | frameAck =>
    cases hanswer
    exact .inr (.inr rfl)
  | reset image =>
    by_cases hwf : imageWellFormed image
    · cases (resetEvent_valid _ hwf).symm.trans hanswer
      exact .inl ⟨image, hevent.resolve_left (fun h => nomatch h.2.1), hwf, rfl⟩
    · have hrefused : resetEvent image { s with inputs := rest } = .refused (.imageTooLong image.length) := if_neg hwf
      cases hrefused.symm.trans hanswer

/-! ## The fault record -/

theorem faultRecordAgrees_faulted (s : State) (w : Option Word) (f : FaultInfo) : faultRecordAgrees (s.faulted w f) :=
  iff_of_true rfl rfl

/-- Out of FAULTED the record agrees exactly when it is empty, so it agrees in every such state with that record. -/
theorem faultRecordAgrees_of_fault_same (hs : s.status ≠ .faulted) (ht : t.status ≠ .faulted)
    (hfault : t.fault = s.fault) (h : faultRecordAgrees s) : faultRecordAgrees t :=
  iff_of_false ht (hfault ▸ mt h.mpr hs)

/-- What a cycle keeps of the fault record, FAULTED and the parameters. -/
theorem cycle_keeps_faulted (h : cycle s = .next t) :
    (faultRecordAgrees s → faultRecordAgrees t) ∧ (s.status = .faulted → t.status = .faulted) ∧ t.config = s.config := by
  rcases cycle_next_cases h with ⟨_, rfl⟩ | ⟨hs, w, f, rfl⟩ | ⟨hs, ht, _, hfault, i, _, hexec⟩
  · exact ⟨id, id, rfl⟩
  · exact ⟨fun _ => faultRecordAgrees_faulted s w f, fun _ => rfl, rfl⟩
  · exact ⟨faultRecordAgrees_of_fault_same hs ht hfault, fun he => absurd he hs, (frame_of_exec hexec).config_same⟩

/-- Settles O57: RESET empties the record and leaves FAULTED, a cycle enters FAULTED with a record, and the other
events write neither. -/
theorem stepKeepsFaultRecordAndFaulted : Obligations.StepKeepsFaultRecordAndFaulted := by
  intro s t hstep
  obtain ⟨rest, ⟨image, hlisted, _, rfl⟩ | hcycle | ht⟩ := step_next_cases hstep
  · obtain ⟨_, hstatus, hfault, hconfig, _⟩ := State.resetWith_fixed { s with inputs := rest } image
    have hagrees : faultRecordAgrees ({ s with inputs := rest }.resetWith image) :=
      iff_of_false (by rw [hstatus]; nofun) (by rw [hfault]; nofun)
    exact ⟨fun _ => hagrees, fun _ _ => ⟨image, rest, hlisted⟩, hconfig⟩
  · obtain ⟨hagrees, hfaulted, hconfig⟩ := cycle_keeps_faulted hcycle
    exact ⟨hagrees, fun hs hne => absurd (hfaulted hs) hne, hconfig⟩
  · rw [ht]
    exact ⟨id, fun hs hne => absurd hs hne, rfl⟩

/-! ## The canonical memory -/

/-- Memory before the image is loaded is canonical, for a font that lies inside memory. -/
theorem resetMemory_wf {c : Config} (hc : c.wellFormed) (draw : Nat) : Memory.wf c.fontBase (resetMemory c draw) := by
  simp only [Config.wellFormed] at hc
  rw [resetMemory]
  split
  · exact nil_wf _
  · refine memPutBytes_wf _ (memPutBytes_wf _ (nil_wf _) ?_) ?_
    · simp only [List.length_map, List.length_range, memSize]
      omega
    · simp only [List.length_map, List.length_range, memSize, fontSize]
      omega

theorem State.resetWith_mem (s : State) (image : List Byte) :
    (s.resetWith image).mem = memPutBytes s.config.fontBase (resetMemory s.config s.draws) programBase image := rfl

theorem memoryCanonical_resetWith {image : List Byte} (hc : s.config.wellFormed) (hwf : imageWellFormed image) :
    memoryCanonical (s.resetWith image) := by
  obtain ⟨_, _, _, hconfig, _⟩ := State.resetWith_fixed s image
  rw [memoryCanonical, State.resetWith_mem, hconfig]
  refine memPutBytes_wf image (resetMemory_wf hc _) ?_
  have hlen : image.length ≤ 3584 := hwf
  simp only [programBase, memSize]
  omega

/-- Settles O55: RESET builds a canonical memory, a cycle writes at most a range inside memory, and the other events
write none. -/
theorem stepKeepsMemoryCanonical : Obligations.StepKeepsMemoryCanonical := by
  intro s t hc hs hstep
  obtain ⟨rest, ⟨image, _, hwf, rfl⟩ | hcycle | ht⟩ := step_next_cases hstep
  · exact memoryCanonical_resetWith hc hwf
  · rcases cycle_next_cases hcycle with ⟨_, rfl⟩ | ⟨_, w, f, rfl⟩ | ⟨_, _, _, _, i, _, hexec⟩
    · exact hs
    · exact hs
    · exact memoryCanonical_of_exec hexec hs
  · rw [ht]
    exact hs

/-! ## The bounds of the pc and of the stacked addresses (10_state.md R26) -/

theorem SkipForm.le {i : Instr} {p : Word} (h : SkipForm i s p) (hpc : s.pc.toNat ≤ 0xFFE) : p.toNat ≤ 0x10FE := by
  obtain ⟨htaken, hnot⟩ := h.toNat hpc
  by_cases hskip : skipTaken i s
  · have := htaken hskip
    omega
  · have := hnot hskip
    omega

/-- Every form of the pc after an instruction is within R26's bound. -/
theorem PcForm.le {i : Instr} {p : Word} (h : PcForm i s p) (hs : pcBounded s) (hpc : s.pc.toNat ≤ 0xFFE) :
    p.toNat ≤ 0x10FE := by
  cases i with
  | jp nnn | call nnn =>
    have hp : p = addrOperand nnn := h
    have hn := nnn.isLt
    rw [hp, toNat_addrOperand]
    omega
  | jpV0 nnn =>
    have hp : p = addrOperand nnn + (s.getV 0).setWidth 16 := h
    have hn := nnn.isLt
    have hv := (s.getV 0).isLt
    rw [hp, toNat_addrOperand_add_byte]
    omega
  | ret =>
    obtain ⟨j, hj, hsp, rfl⟩ := h
    have hentry := hs.2 j hj (by omega)
    rw [toNat_add_of_fetchable 2 (by decide) hentry]
    show (s.stack[j]).toNat + 2 ≤ 0x10FE
    omega
  | _ => exact SkipForm.le h hpc

theorem pc_le_of_exec {i : Instr} (h : exec i s = .next t) (hs : pcBounded s) (hpc : s.pc.toNat ≤ 0xFFE) :
    t.pc.toNat ≤ 0x10FE := by
  have hends := exec_ends i s
  rw [h] at hends
  cases hends with
  | raised f => exact hs.1
  | waited x hi => exact hs.1
  | completed u hform => exact hform.le hs hpc

/-- The entries in use after CALL: those of before, and the call's own address. -/
theorem stack_le_of_exec_call {nnn : Addr} (h : exec (.call nnn) s = .next t) (hs : pcBounded s)
    (hpc : s.pc.toNat ≤ 0xFFE) (j : Nat) (hj : j < 16) (hused : j < t.sp.val) : (t.stack[j]).toNat ≤ 0xFFE := by
  obtain ⟨_, hstack⟩ := hs
  rcases Nat.lt_or_ge s.sp.val 16 with hfree | hfull
  · obtain ⟨t', hexec, hpushed, hsp, hkept, _⟩ := (callPushesItsOwnAddress nnn s).2 hfree
    cases hexec.symm.trans h
    rcases Nat.lt_or_ge j s.sp.val with hold | hnew
    · rw [hkept j hj (by omega)]
      exact hstack j hj hold
    · obtain rfl : j = s.sp.val := by omega
      rw [hpushed]
      exact hpc
  · obtain ⟨t', hexec, htook⟩ := callWithFullStackOverflows nnn s (by omega)
    cases hexec.symm.trans h
    rw [TookFault] at htook
    subst htook
    exact hstack j hj hused

theorem stack_le_of_exec {i : Instr} (h : exec i s = .next t) (hs : pcBounded s) (hpc : s.pc.toNat ≤ 0xFFE)
    (j : Nat) (hj : j < 16) (hused : j < t.sp.val) : (t.stack[j]).toNat ≤ 0xFFE := by
  by_cases hparts : Part.stack ∈ partsWritten i
  · obtain rfl | ⟨nnn, rfl⟩ := stack_mem_partsWritten hparts
    · obtain ⟨hstack, hsp⟩ := stack_of_exec_ret h
      simpa only [hstack] using hs.2 j hj (by omega)
    · exact stack_le_of_exec_call h hs hpc j hj hused
  · have hframe := frame_of_exec h
    rw [hframe.sp_same hparts] at hused
    simpa only [hframe.stack_same hparts] using hs.2 j hj hused

/-- Settles O56: RESET starts at 0x200 with a bounded stack, a cycle that fetched leaves a bounded pc and pushes at most
its own, and the other events write neither. -/
theorem stepKeepsProgramCounterBounded : Obligations.StepKeepsProgramCounterBounded := by
  intro s t hs hstep
  obtain ⟨rest, ⟨image, _, _, rfl⟩ | hcycle | ht⟩ := step_next_cases hstep
  · exact ⟨(State.resetWith_fixed _ image).1 ▸ by decide, State.resetWith_stack _ image⟩
  · rcases cycle_next_cases hcycle with ⟨_, rfl⟩ | ⟨_, w, f, rfl⟩ | ⟨_, _, _, _, i, hpc, hexec⟩
    · exact hs
    · exact hs
    · exact ⟨pc_le_of_exec hexec hs hpc, stack_le_of_exec hexec hs hpc⟩
  · rw [ht]
    exact hs

/-! ## RESET -/

/-- Before the image is loaded the font stands at FONT_BASE, whatever RESET_FILL: the draws lie on either side of it. -/
theorem memByte_resetMemory_font {c : Config} (draw k : Nat) (hk : k < 80) :
    memByte c.fontBase (resetMemory c draw) (c.fontBase + k) = fontBytes.getD k 0 := by
  have hfill : memByte c.fontBase [] (c.fontBase + k) = fontBytes.getD k 0 := by
    show memFill c.fontBase (c.fontBase + k) = _
    rw [memFill, if_pos ⟨Nat.le_add_right _ _, Nat.add_lt_add_left hk _⟩, Nat.add_sub_cancel_left]
  rw [resetMemory]
  split
  · exact hfill
  · rw [memByte_memPutBytes_outside _ _ _ _ _ (.inl (by simp only [fontSize]; omega)),
      memByte_memPutBytes_outside _ _ _ _ _ (.inr (by simp only [List.length_map, List.length_range]; omega)), hfill]

/-- With RESET_FILL = ZERO an address outside the font holds 0 before the image is loaded. -/
theorem memByte_resetMemory_zero {c : Config} (hzero : c.resetFill = .zero) (draw : Nat) {a : Nat}
    (ha : a < c.fontBase ∨ c.fontBase + 80 ≤ a) : memByte c.fontBase (resetMemory c draw) a = 0 := by
  rw [resetMemory, hzero]
  show memFill c.fontBase a = 0
  rw [memFill, if_neg (by simp only [fontSize]; omega)]

/-- A byte after RESET: the image's inside its range, else what was there before the image was loaded. -/
theorem State.readByte_resetWith (s : State) (image : List Byte) (a : Nat) :
    (s.resetWith image).readByte a =
      if 0x200 ≤ a ∧ a < 0x200 + image.length then image.getD (a - 0x200) 0
      else memByte s.config.fontBase (resetMemory s.config s.draws) a := by
  obtain ⟨_, _, _, hconfig, _⟩ := State.resetWith_fixed s image
  rw [State.readByte, State.resetWith_mem, hconfig, memByte_memPutBytes, programBase]

theorem readByte_resetWith_image (s : State) {image : List Byte} {k : Nat} (hk : k < image.length) :
    (s.resetWith image).readByte (0x200 + k) = image.getD k 0 := by
  rw [State.readByte_resetWith, if_pos (by omega), Nat.add_sub_cancel_left]

theorem readByte_resetWith_font (s : State) (image : List Byte) (hc : s.config.wellFormed) {k : Nat} (hk : k < 80) :
    (s.resetWith image).readByte (s.config.fontBase + k) = fontBytes.getD k 0 := by
  have hbase : s.config.fontBase + 79 ≤ 0x1FF := hc
  rw [State.readByte_resetWith, if_neg (by omega), memByte_resetMemory_font _ k hk]

/-- The registers, timers, keypad and display that RESET with RESET_FILL = ZERO leaves. -/
theorem State.resetWith_of_zero (s : State) (hzero : s.config.resetFill = .zero) (image : List Byte) :
    s.resetWith image =
      { State.reset with
        mem := memPutBytes s.config.fontBase (resetMemory s.config s.draws) programBase image
        config := s.config, inputs := s.inputs, randIn := s.randIn, draws := s.draws } := by
  simp only [State.resetWith, State.resetRegisters, hzero]
  rfl

theorem State.getV_reset (r : Nibble) : State.reset.getV r = 0 := Vector.getElem_replicate r.isLt

/-- Settles O52: the step is the reset event, whose memory is the font, the image, and else the fill. -/
theorem resetLoadsFontAndImage : Obligations.ResetLoadsFontAndImage := by
  intro s image rest hlisted hc hlen
  obtain ⟨hpc, hstatus, hfault, hconfig, hinputs, hrand⟩ := State.resetWith_fixed { s with inputs := rest } image
  have hevent : step s = resetEvent image { s with inputs := rest } := step_event hlisted
  refine ⟨hevent, _, hevent.trans (resetEvent_valid _ hlen), hpc, hstatus, hfault, hconfig, hinputs, hrand,
    fun k hk => readByte_resetWith_font { s with inputs := rest } image hc hk, fun k hk => readByte_resetWith_image _ hk,
    fun hzero => ?_⟩
  have hbytes : ∀ a, a < 0x1000 → (a < s.config.fontBase ∨ s.config.fontBase + 80 ≤ a) →
      (a < 0x200 ∨ 0x200 + image.length ≤ a) → ({ s with inputs := rest }.resetWith image).readByte a = 0 :=
    fun a _ hfont himage => by
      rw [State.readByte_resetWith, if_neg (by omega)]
      exact memByte_resetMemory_zero hzero _ hfont
  rw [State.resetWith_of_zero { s with inputs := rest } hzero] at hbytes ⊢
  exact ⟨State.getV_reset, rfl, rfl, rfl, rfl, rfl, rfl, Grid.pixel_blank, rfl, hbytes⟩

/-- Settles O53: the image's first two bytes stand at 0x200, and from State.reset the font and zeros do. -/
theorem firstFetchAfterResetReadsTheImage : Obligations.FirstFetchAfterResetReadsTheImage := by
  refine ⟨fun s t hi lo rest hreset => ?_, ?_⟩
  · by_cases hwf : imageWellFormed (hi :: lo :: rest)
    · cases (resetEvent_valid s hwf).symm.trans hreset
      have hpc := (State.resetWith_fixed s (hi :: lo :: rest)).1
      rw [fetchWord_inside (hpc ▸ by decide), hpc]
      exact congrArg Except.ok (congrArg₂ wordOfBytes
        (readByte_resetWith_image s (image := hi :: lo :: rest) (k := 0) (Nat.succ_pos _))
        (readByte_resetWith_image s (image := hi :: lo :: rest) (k := 1) (Nat.succ_lt_succ (Nat.succ_pos _))))
    · have hrefused : resetEvent (hi :: lo :: rest) s = .refused (.imageTooLong (hi :: lo :: rest).length) := if_neg hwf
      cases hrefused.symm.trans hreset
  · have hcycle : cycle State.reset = .next (State.reset.faulted (some 0x0000) (plainFault .decodeFailure)) :=
      cycle_of_invalid nofun (by decide) (by decide)
    exact ⟨_, (step_no_event rfl).trans hcycle, tookFault_faulted _ _ _⟩

/-- Settles O51: the reset state's fields, and its memory, which lists nothing and so reads as font and zeros. -/
theorem resetStateHoldsTheTableValues : Obligations.ResetStateHoldsTheTableValues := by
  have hzero : ∀ a, 0x050 ≤ a → a < 0x1000 → State.reset.readByte a = 0 := fun a ha _ =>
    memByte_resetMemory_zero (c := defaultConfig) rfl 0 (.inr (Nat.zero_add 80 ▸ ha))
  exact ⟨State.getV_reset, rfl, rfl, rfl, rfl, rfl, rfl, rfl, Grid.pixel_blank, rfl, rfl, rfl,
    by decide, by decide, by decide, by decide, by decide, by decide, by decide, by decide,
    by decide, by decide, by decide, by decide, by decide, by decide, by decide, by decide, hzero⟩

/-- Settles O58: memory lists nothing, the pc is 0x200, no entry is in use, and the record is empty. -/
theorem resetMeetsTheInvariants : Obligations.ResetMeetsTheInvariants := by
  have hpc : pcBounded State.reset := ⟨by decide, fun j _ hused => absurd hused (Nat.not_lt_zero j)⟩
  exact ⟨by decide, nil_wf _, hpc, iff_of_false nofun nofun⟩

end Sys2Proof.Machine
end

section
/-! Noninterference: an update of pieces of state that a handler neither reads nor writes passes through the handler. -/

namespace Sys2Proof.Machine

/-! ## Updates that the shared operations do not see -/

/-- The update g leaves every piece of state that the shared operations read, and passes through what they write. -/
structure Unseen (g : State → State) : Prop where
  v_same : ∀ s, (g s).v = s.v
  mem_same : ∀ s, (g s).mem = s.mem
  config_same : ∀ s, (g s).config = s.config
  i_same : ∀ s, (g s).i = s.i
  pc_same : ∀ s, (g s).pc = s.pc
  keys_same : ∀ s, (g s).keys = s.keys
  grid_same : ∀ s, (g s).grid = s.grid
  dt_same : ∀ s, (g s).dt = s.dt
  setV : ∀ s x b, (g s).setV x b = g (s.setV x b)
  jump : ∀ s a, (g s).jump a = g (s.jump a)
  setI : ∀ s a, (g s).setI a = g (s.setI a)
  storeBytes : ∀ s a bytes, (g s).storeBytes a bytes = g (s.storeBytes a bytes)
  setDisplay : ∀ s grid, (g s).setDisplay grid = g (s.setDisplay grid)
  setDT : ∀ s b, (g s).setDT b = g (s.setDT b)
  setST : ∀ s b, (g s).setST b = g (s.setST b)

/-- The stack's entries, kprev and the rand input rewritten, and nothing else (10_state.md R27, R31, R41). -/
def State.mapAside (stack : Vector Word 16 → Vector Word 16) (kprev : Word → Word) (randIn : List Byte → List Byte)
    (draws : Nat → Nat) (s : State) : State :=
  { s with stack := stack s.stack, kprev := kprev s.kprev, randIn := randIn s.randIn, draws := draws s.draws }

theorem unseen_mapAside (stack : Vector Word 16 → Vector Word 16) (kprev : Word → Word)
    (randIn : List Byte → List Byte) (draws : Nat → Nat) : Unseen (State.mapAside stack kprev randIn draws) := by
  constructor <;> intros <;> rfl

/-! ## Both runs of a handler -/

/-- The handler of i ends at g s as it ends at s: by the same fault, by WAIT, or by NEXT with the update passed through. -/
inductive EndsAlike (i : Instr) (g : State → State) (s : State) : Result → Result → Prop where
  | raised (f : FaultInfo) : EndsAlike i g s (raise i f s) (raise i f (g s))
  | waited : EndsAlike i g s (wait s) (wait (g s))
  | completed (u : State) : EndsAlike i g s (complete u) (complete (g u))

variable {i : Instr} {g : State → State} {s : State}

namespace Unseen

variable (hg : Unseen g)
include hg

theorem getV (s : State) (x : Nibble) : (g s).getV x = s.getV x := State.getV_congr (hg.v_same s) x

theorem readBytes (s : State) (a n : Nat) : (g s).readBytes a n = s.readBytes a n :=
  List.map_congr_left fun _ _ => State.readByte_congr (hg.mem_same s) (hg.config_same s) _

theorem memRead (s : State) (addr : Word) (n : Nat) : (g s).memRead addr n = s.memRead addr n := by
  rw [State.memRead, State.memRead, hg.readBytes]

theorem regsUpTo (s : State) (x : Nibble) : (g s).regsUpTo x = s.regsUpTo x :=
  List.map_congr_left fun _ _ => hg.getV s _

theorem shiftSource (s : State) (x y : Nibble) : (g s).shiftSource x y = s.shiftSource x y := by
  rw [State.shiftSource, State.shiftSource, hg.config_same, hg.getV, hg.getV]

theorem loadRegs (s : State) (k : Nat) (vals : List Byte) : (g s).loadRegs k vals = g (s.loadRegs k vals) := by
  induction vals generalizing s k with
  | nil => rfl
  | cons b rest ih => rw [State.loadRegs, State.loadRegs, hg.setV, ih]

theorem writeAlu (s : State) (x : Nibble) (o : AluOut) : (g s).writeAlu x o = g (s.writeAlu x o) := by
  rw [State.writeAlu, State.writeAlu]
  split
  · rw [hg.setV, hg.setV]
  · rw [hg.setV]

theorem complete_jump (s : State) (target : Word) :
    EndsAlike i g s (complete (s.jump target)) (complete ((g s).jump target)) := by
  rw [hg.jump]
  exact .completed _

/-- Going on to p + 2 is a jump to it. -/
theorem completeNext (u : State) : EndsAlike i g s (completeNext u) (completeNext (g u)) := by
  have hadvance : (g u).advance = g u.advance := by
    show (g u).jump ((g u).pc + 2) = g (u.jump (u.pc + 2))
    rw [hg.jump, hg.pc_same]
  rw [Machine.completeNext, Machine.completeNext, hadvance]
  exact .completed _

theorem aluInstr (fn : AluFn) (x : Nibble) (a b : Byte) :
    EndsAlike i g s (aluInstr fn x a b s) (aluInstr fn x a b (g s)) := by
  rw [Machine.aluInstr, Machine.aluInstr, hg.config_same, hg.writeAlu]
  exact hg.completeNext _

theorem skipIf (c : Bool) : EndsAlike i g s (skipIf c s) (skipIf c (g s)) := by
  rw [Machine.skipIf, Machine.skipIf, hg.pc_same]
  exact hg.complete_jump s _

theorem skipOnKey (x : Nibble) (pressed : Bool) :
    EndsAlike i g s (skipOnKey i x pressed s) (skipOnKey i x pressed (g s)) := by
  rw [Machine.skipOnKey, Machine.skipOnKey, hg.config_same, hg.getV, hg.keys_same]
  split
  · exact .raised _
  · exact hg.skipIf _

theorem memWrite (s : State) (addr : Word) (bytes : List Byte) :
    (g s).memWrite addr bytes = (s.memWrite addr bytes).map g := by
  rw [State.memWrite, State.memWrite, hg.config_same, hg.storeBytes]
  cases boundsCheck addr bytes.length with
  | some f => rfl
  | none => cases reservedCheck s.config.reservedWrite addr bytes.length <;> rfl

theorem storeAtI (bytes : List Byte) : EndsAlike i g s (storeAtI i bytes s) (storeAtI i bytes (g s)) := by
  rw [Machine.storeAtI, Machine.storeAtI, hg.i_same, hg.memWrite]
  cases s.memWrite s.i bytes with
  | error f => exact .raised f
  | ok s' => exact hg.completeNext s'

theorem execDrw (x y n : Nibble) :
    EndsAlike (.drw x y n) g s (execDrw x y n s) (execDrw x y n (g s)) := by
  rw [Machine.execDrw, Machine.execDrw, hg.i_same, hg.memRead]
  cases s.memRead s.i n.toNat with
  | error f => exact .raised f
  | ok rows =>
    simp only [hg.grid_same, hg.getV, hg.setDisplay, hg.setV]
    exact hg.completeNext _

theorem execLdVMem (x : Nibble) : EndsAlike (.ldVMem x) g s (execLdVMem x s) (execLdVMem x (g s)) := by
  rw [Machine.execLdVMem, Machine.execLdVMem, hg.i_same, hg.memRead]
  cases s.memRead s.i (x.toNat + 1) with
  | error f => exact .raised f
  | ok vals =>
    simp only [hg.loadRegs]
    exact hg.completeNext _

theorem execLdFV (x : Nibble) : EndsAlike (.ldFV x) g s (execLdFV x s) (execLdFV x (g s)) := by
  rw [Machine.execLdFV, Machine.execLdFV, hg.config_same, hg.getV]
  cases numberOperand s.config.fontDigit (s.getV x) with
  | error f => exact .raised f
  | ok d =>
    simp only [hg.setI]
    exact hg.completeNext _

end Unseen

/-- The four instructions that read the stack, the rand input or kprev. -/
def ReadsAside (i : Instr) : Prop :=
  match i with
  | .ret | .call _ | .rnd _ _ | .ldVKey _ => True
  | _ => False

/-- An unseen update passes through every instruction that does not read the stack, the rand input or kprev;
what it does to those four is a hypothesis. -/
theorem exec_endsAlike (hg : Unseen g) (i : Instr) (s : State)
    (haside : ReadsAside i → EndsAlike i g s (exec i s) (exec i (g s))) : EndsAlike i g s (exec i s) (exec i (g s)) := by
  cases i with
  | ret | call | rnd | ldVKey => exact haside trivial
  | cls =>
    rw [exec_cls, exec_cls, hg.setDisplay]
    exact hg.completeNext _
  | jp nnn => exact hg.complete_jump s _
  | jpV0 nnn =>
    simp only [exec, execJpV0, hg.getV]
    exact hg.complete_jump s _
  | seVK | sneVK | seVV | sneVV =>
    simp only [exec, execSeVK, execSneVK, execSeVV, execSneVV, hg.getV]
    exact hg.skipIf _
  | skp x => exact hg.skipOnKey x true
  | sknp x => exact hg.skipOnKey x false
  | ldVK x kk =>
    simp only [exec, execLdVK, hg.setV]
    exact hg.completeNext _
  | ldVDT x =>
    rw [exec_ldVDT, exec_ldVDT, hg.setV, hg.dt_same]
    exact hg.completeNext _
  | addVK | ldVV | orVV | andVV | xorVV | addVV | sub | shr | subn | shl =>
    simp only [exec, execAddVK, execLdVV, execOrVV, execAndVV, execXorVV, execAddVV, execSub, execShr, execSubn,
      execShl, hg.getV, hg.shiftSource]
    exact hg.aluInstr _ _ _ _
  | ldI nnn =>
    simp only [exec, execLdI, hg.setI]
    exact hg.completeNext _
  | addIV x =>
    simp only [exec, execAddIV, hg.i_same, hg.getV, hg.setI]
    exact hg.completeNext _
  | ldFV x => exact hg.execLdFV x
  | drw x y n => exact hg.execDrw x y n
  | ldDTV x =>
    rw [exec_ldDTV, exec_ldDTV, hg.getV, hg.setDT]
    exact hg.completeNext _
  | ldSTV x =>
    rw [exec_ldSTV, exec_ldSTV, hg.getV, hg.setST]
    exact hg.completeNext _
  | ldBV x =>
    rw [exec_ldBV, exec_ldBV, hg.getV]
    exact hg.storeAtI _
  | ldMemV x =>
    rw [exec_ldMemV, exec_ldMemV, hg.regsUpTo]
    exact hg.storeAtI _
  | ldVMem x => exact hg.execLdVMem x

/-! ## The four instructions that read the stack, the rand input or kprev -/

section
variable (stack : Vector Word 16 → Vector Word 16) (kprev : Word → Word) (randIn : List Byte → List Byte)
  (draws : Nat → Nat) (s : State)

theorem ret_endsAlike : EndsAlike .ret (State.mapAside id kprev randIn draws) s (exec .ret s)
    (exec .ret (s.mapAside id kprev randIn draws)) := by
  show EndsAlike .ret _ s (execRet s) (execRet _)
  rcases Nat.eq_zero_or_pos s.sp.val with h | h
  · rw [execRet_of_empty h, execRet_of_empty (s := s.mapAside id kprev randIn draws) h]
    exact .raised _
  · rw [execRet_of_pos h, execRet_of_pos (s := s.mapAside id kprev randIn draws) h]
    exact .completed _

theorem call_endsAlike (nnn : Addr) : EndsAlike (.call nnn) (State.mapAside id kprev randIn draws) s
    (exec (.call nnn) s) (exec (.call nnn) (s.mapAside id kprev randIn draws)) := by
  show EndsAlike (.call nnn) _ s (execCall nnn s) (execCall nnn _)
  rcases Nat.lt_or_ge s.sp.val 16 with h | h
  · rw [execCall_of_free nnn h, execCall_of_free (s := s.mapAside id kprev randIn draws) nnn h]
    exact .completed _
  · have hfull : s.sp.val = 16 := by omega
    rw [execCall_of_full nnn hfull, execCall_of_full (s := s.mapAside id kprev randIn draws) nnn hfull]
    exact .raised _

theorem rnd_endsAlike (x : Nibble) (kk : Byte) : EndsAlike (.rnd x kk) (State.mapAside stack kprev id id) s
    (exec (.rnd x kk) s) (exec (.rnd x kk) (s.mapAside stack kprev id id)) := by
  have hsample : (s.mapAside stack kprev id id).sampleRand =
      (s.sampleRand.1, s.sampleRand.2.mapAside stack kprev id id) := by
    obtain ⟨mem, v, i, pc, sp, stack, dt, st, keys, kprev, grid, redraw, status, fault, config, inputs, randIn, draws⟩ := s
    cases randIn <;> rfl
  simp only [exec, execRnd, hsample, (unseen_mapAside stack kprev id id).setV]
  exact (unseen_mapAside stack kprev id id).completeNext _

theorem ldVKey_endsAlike (x : Nibble) : EndsAlike (.ldVKey x) (State.mapAside stack id randIn draws) s
    (exec (.ldVKey x) s) (exec (.ldVKey x) (s.mapAside stack id randIn draws)) := by
  have hnew : (s.mapAside stack id randIn draws).newlyPressed = s.newlyPressed := rfl
  cases hkey : lowestKey s.newlyPressed with
  | none =>
    rw [exec_ldVKey_of_none hkey, exec_ldVKey_of_none (hnew ▸ hkey)]
    exact .waited
  | some k =>
    rw [exec_ldVKey_of_some hkey, exec_ldVKey_of_some (hnew ▸ hkey)]
    exact (unseen_mapAside stack id randIn draws).completeNext _

end

/-! ## The rand input and kprev -/

/-- An update that leaves kprev passes through the end of a cycle. -/
theorem EndsAlike.eq_next {stack : Vector Word 16 → Vector Word 16} {randIn : List Byte → List Byte}
    {draws : Nat → Nat} {t : State} {answer : Result}
    (h : EndsAlike i (State.mapAside stack id randIn draws) s (.next t) answer) :
    answer = .next (t.mapAside stack id randIn draws) := by
  cases h <;> rfl

/-- Another kprev is left by a fault, and overwritten by WAIT and NEXT. -/
theorem EndsAlike.eq_next_of_kprev {k : Word} {t : State} {answer : Result}
    (h : EndsAlike i (State.mapAside id (fun _ => k) id id) s (.next t) answer) :
    answer = .next (if t.status = .faulted then { t with kprev := k } else t) := by
  cases h <;> rfl

/-- Settles O60: the rand input passes through every instruction but Cxkk, and kprev through every one but Fx0A. -/
theorem randAndKprevReachOneInstructionEach : Obligations.RandAndKprevReachOneInstructionEach := by
  intro i s t r d k hexec
  refine ⟨fun hrnd => ?rand, fun hkey => ?kprev⟩
  case rand =>
    have hends := exec_endsAlike (unseen_mapAside id id (fun _ => r) (fun _ => d)) i s fun haside => by
      cases i with
      | ret => exact ret_endsAlike _ _ _ s
      | call nnn => exact call_endsAlike _ _ _ s nnn
      | rnd x kk => exact absurd rfl (hrnd x kk)
      | ldVKey x => exact ldVKey_endsAlike _ _ _ s x
      | _ => exact haside.elim
    rw [hexec] at hends
    exact hends.eq_next
  case kprev =>
    have hends := exec_endsAlike (unseen_mapAside id (fun _ => k) id id) i s fun haside => by
      cases i with
      | ret => exact ret_endsAlike _ _ _ s
      | call nnn => exact call_endsAlike _ _ _ s nnn
      | rnd x kk => exact rnd_endsAlike _ _ s x kk
      | ldVKey x => exact absurd rfl (hkey x)
      | _ => exact haside.elim
    rw [hexec] at hends
    exact hends.eq_next_of_kprev

/-! ## Stack entries not in use -/

/-- RESET writes every stack entry. -/
theorem State.resetWith_of_stack (s : State) (entries : Vector Word 16) (image : List Byte) :
    { s with stack := entries }.resetWith image = s.resetWith image := by
  simp only [State.resetWith, State.resetRegisters]

section
variable {entries : Vector Word 16} {s' : State}
  (hentries : ∀ (j : Nat) (h : j < 16), j < s.sp.val → entries[j] = s.stack[j])
include hentries

/-- A return reads the entry below SP, which is in use. -/
theorem execRet_unusedStack (h : exec .ret s = .next s') :
    ∃ t', exec .ret { s with stack := entries } = .next t' ∧ SameButUnusedStack s' t' := by
  rcases Nat.eq_zero_or_pos s.sp.val with hsp | hsp
  · cases (execRet_of_empty hsp).symm.trans h
    exact ⟨_, execRet_of_empty (s := { s with stack := entries }) hsp, rfl, hentries⟩
  · cases (execRet_of_pos hsp).symm.trans h
    have hpop := execRet_of_pos (s := { s with stack := entries }) hsp
    rw [hentries (s.sp.val - 1) (by omega) (by omega)] at hpop
    exact ⟨_, hpop, rfl, fun j hj hused => hentries j hj (Nat.lt_of_lt_of_le hused (Nat.sub_le _ 1))⟩

/-- A call writes the entry at SP, whatever it held. -/
theorem execCall_unusedStack (nnn : Addr) (h : exec (.call nnn) s = .next s') :
    ∃ t', exec (.call nnn) { s with stack := entries } = .next t' ∧ SameButUnusedStack s' t' := by
  rcases Nat.lt_or_ge s.sp.val 16 with hfree | hge
  · cases (execCall_of_free nnn hfree).symm.trans h
    refine ⟨_, execCall_of_free (s := { s with stack := entries }) nnn hfree, rfl, fun j hj hused => ?_⟩
    show (entries.set s.sp.val s.pc hfree)[j] = (s.stack.set s.sp.val s.pc hfree)[j]
    rw [Vector.getElem_set, Vector.getElem_set]
    split
    · rfl
    next hne => exact hentries j hj (Nat.lt_of_le_of_ne (Nat.le_of_lt_succ hused) (Ne.symm hne))
  · have hfull : s.sp.val = 16 := by omega
    cases (execCall_of_full nnn hfull).symm.trans h
    exact ⟨_, execCall_of_full (s := { s with stack := entries }) nnn hfull, rfl, hentries⟩

theorem exec_unusedStack (h : exec i s = .next s') :
    ∃ t', exec i { s with stack := entries } = .next t' ∧ SameButUnusedStack s' t' := by
  by_cases hparts : Part.stack ∈ partsWritten i
  · obtain rfl | ⟨nnn, rfl⟩ := stack_mem_partsWritten hparts
    · exact execRet_unusedStack hentries h
    · exact execCall_unusedStack hentries nnn h
  · have hends := exec_endsAlike (unseen_mapAside (fun _ => entries) id id id) i s fun haside => by
      cases i with
      | ret | call => exact absurd (List.mem_singleton_self _) hparts
      | rnd x kk => exact rnd_endsAlike _ _ s x kk
      | ldVKey x => exact ldVKey_endsAlike _ _ _ s x
      | _ => exact haside.elim
    rw [h] at hends
    have hframe := frame_of_exec h
    refine ⟨_, hends.eq_next, rfl, fun j hj hused => ?_⟩
    rw [hframe.sp_same hparts] at hused
    show entries[j] = s'.stack[j]
    simpa only [hframe.stack_same hparts] using hentries j hj hused

/-- The fetch reads no stack entry, so both cycles run the same instruction. -/
theorem cycle_unusedStack (h : cycle s = .next s') :
    ∃ t', cycle { s with stack := entries } = .next t' ∧ SameButUnusedStack s' t' := by
  rcases cycle_cases s with ⟨hs, hc⟩ | ⟨hs, hpc, hc⟩ | ⟨w, hs, _, hw, hd, hc⟩ | ⟨w, i, hs, _, hw, hd, hc⟩ <;>
    rw [hc] at h
  · cases h
    exact ⟨_, if_pos hs, rfl, hentries⟩
  · cases h
    have hout : 0xFFE < s.pc.toNat := by
      simp only [memSize] at hpc
      omega
    exact ⟨_, cycle_of_fetch_error (s := { s with stack := entries }) hs (fetchWord_outside hout), rfl, hentries⟩
  · cases h
    exact ⟨_, cycle_of_invalid (s := { s with stack := entries }) hs hw hd, rfl, hentries⟩
  · rw [cycle_of_valid (s := { s with stack := entries }) hs hw hd]
    exact exec_unusedStack hentries h

theorem hostEvent_unusedStack (e : HostEvent) (h : hostEvent e s = .next s') :
    ∃ t', hostEvent e { s with stack := entries } = .next t' ∧ SameButUnusedStack s' t' := by
  cases e with
  | step => exact cycle_unusedStack hentries h
  | tick | setKeys | frameAck =>
    cases h
    exact ⟨_, rfl, rfl, hentries⟩
  | reset image =>
    by_cases hwf : imageWellFormed image
    · cases (resetEvent_valid s hwf).symm.trans h
      refine ⟨_, resetEvent_valid _ hwf, ?_⟩
      rw [State.resetWith_of_stack]
      exact ⟨rfl, fun _ _ _ => rfl⟩
    · have hrefused : resetEvent image s = .refused (.imageTooLong image.length) := if_neg hwf
      cases hrefused.symm.trans h

end

/-- Settles O59: the two steps apply one event, and no event reads an entry that is not in use. -/
theorem unusedStackEntriesAreUnobservable : Obligations.UnusedStackEntriesAreUnobservable := by
  intro s t s' hsame hstep
  obtain ⟨entries, rfl, hentries⟩ : ∃ entries : Vector Word 16, t = { s with stack := entries } ∧
      ∀ (j : Nat) (h : j < 16), j < s.sp.val → entries[j] = s.stack[j] := ⟨t.stack, hsame⟩
  by_cases hlisted : s.inputs = []
  · rw [step_no_event hlisted] at hstep
    rw [step_no_event (s := { s with stack := entries }) hlisted]
    exact cycle_unusedStack hentries hstep
  · obtain ⟨e, rest, hlisted⟩ := List.exists_cons_of_ne_nil hlisted
    rw [step_event hlisted] at hstep
    rw [step_event (s := { s with stack := entries }) hlisted]
    exact hostEvent_unusedStack (s := { s with inputs := rest }) hentries e hstep

end Sys2Proof.Machine
end
